-- ==== Sys2Proof/Word.lean ====
section
/-!
DEFINITION. The word types of the port (00_scope.md R13, R14): registers are 32-bit unsigned words, bit 0 least
significant; window offsets have 10 bits; the per-pin vectors have 16.
-/
namespace Sys2Proof

/-- A register value or bus datum: 32 bits (00_scope.md R13). -/
abbrev Word := BitVec 32

/-- A byte offset inside the 1024-byte window: 10 bits (20_memory.md R60). -/
abbrev Offset := BitVec 10

/-- One bit per pin of the port, bit i for pin i (10_state.md R33, R34). -/
abbrev PinVec := BitVec 16

end Sys2Proof
end

