-- ==== Sys2Proof/Config.lean ====
section
/-!
DEFINITION. The construction parameters of a port (00_scope.md R7, R8): fixed when the instance is constructed, never
changed by an operation. State carries them in one field (log entry 4).
-/
namespace Sys2Proof

/-- FAMILY (00_scope.md R7): OTHER stands for every variant that is not F4. -/
inductive Family
  | f4
  | other
  deriving DecidableEq, Repr

/-- The parameters of 00_scope.md R7 and R8. PIN_COUNT is 0 to 16 by its type (10_state.md R42). -/
structure Config where
  family      : Family
  port        : Nat
  pinCount    : Fin 17
  initEnabled : Bool
  base        : Nat
  deriving DecidableEq, Repr

/-- BASE is a multiple of 1024 (00_scope.md R8). -/
def Config.wf (c : Config) : Bool := c.base % 1024 == 0

/-- The defaults of 00_scope.md R7. INIT_ENABLED and BASE are OPEN in the spec: DESIGN CHOICE true and 0, unsafe
(log entries 5 and 6); the statements quantify over every configuration. -/
def Config.standard : Config :=
  { family := .f4, port := 0, pinCount := 16, initEnabled := true, base := 0 }

end Sys2Proof
end

