-- ==== Sys2Proof/Syntax.lean ====
section
/-!
DEFINITION. What is presented to the port (Operation, 30_encoding.md R90 to R94), its encoded form (Encoding, R105)
and what it is decoded to (Instr, one constructor per row of opcode_table.json).
-/
namespace Sys2Proof

/-- The eleven bus-visible registers (10_state.md R21). -/
inductive Reg
  | moder | otyper | ospeedr | pupdr | idr | odr | bsrr | lckr | afrl | afrh | brr
  deriving DecidableEq, Repr

/-- One operation as the environment presents it: the five classes of 00_scope.md R9. A bus access carries its size
and its offset, so that an access which is not 4 bytes wide or lies outside the window can be presented (and is
refused, 60_exceptions.md R206); line levels and the pin-input value are integers (30_encoding.md R92, R93, R94). -/
inductive Operation
  | busRead    (size : Nat) (offset : Int)
  | busWrite   (size : Nat) (offset : Int) (wdata : Word)
  | lineReset  (level : Int)
  | lineEnable (level : Int)
  | linePin    (i : Int) (v : Int)
  deriving DecidableEq, Repr

/-- The encoded form of 30_encoding.md R105: a bus operation is the pair (selector, wdata), wdata absent for a read;
a reset or enable operation is its selector (new level, tracked level); a pin-input operation is its index and the
sign class of its value (R102). -/
inductive Encoding
  | bus        (sel : BitVec 11) (wdata : Option Word)
  | lineReset  (sel : BitVec 2)
  | lineEnable (sel : BitVec 2)
  | linePin    (i : Int) (cls : BitVec 2)
  deriving DecidableEq, Repr

/-- What decoding depends on beside the encoded operation (30_encoding.md R104, R105): the configuration's FAMILY and
PIN_COUNT, the run-time enable gate, and the tracked level of the reset line, which is a bit of its selector. -/
structure DecodeContext where
  family        : Family
  pinCount      : Nat
  enabled       : Bool
  resetAsserted : Bool
  deriving DecidableEq, Repr

/-- One constructor per row of opcode_table.json, in the table's order; an operand the row ignores (wdata of a dropped
write, the class of a pin event with a bad index) is kept, so that no bit of an encoding is lost. -/
inductive Instr
  | rdDisabled (offset : Offset)
  | rdModer
  | rdOtyper
  | rdOspeedr
  | rdPupdr
  | rdIdr
  | rdOdr
  | rdBsrr
  | rdLckr
  | rdAfrl
  | rdAfrh
  | rdBrr
  | rdBrrF4
  | rdBad (offset : Offset)
  | wrDisabled (offset : Offset) (wdata : Word)
  | wrModer (wdata : Word)
  | wrOtyper (wdata : Word)
  | wrOspeedr (wdata : Word)
  | wrPupdr (wdata : Word)
  | wrIdr (wdata : Word)
  | wrOdr (wdata : Word)
  | wrBsrr (wdata : Word)
  | wrLckr (wdata : Word)
  | wrAfrl (wdata : Word)
  | wrAfrh (wdata : Word)
  | wrBrr (wdata : Word)
  | wrBrrF4 (wdata : Word)
  | wrBad (offset : Offset) (wdata : Word)
  | resetAssert
  | resetDeassert
  | resetHold (level : Bool)
  | enableChange (level : Bool)
  | enableHold (level : Bool)
  | pinBadindex (i : Int) (cls : BitVec 2)
  | pinFloat (i : Nat)
  | pinLow (i : Nat)
  | pinHigh (i : Nat)
  | resolve
  deriving DecidableEq, Repr

end Sys2Proof
end

