-- ==== Sys2Proof/WellFormed.lean ====
section
/-!
DEFINITION. What an instruction must satisfy beside its type: a bad-offset row carries an offset at which no register
lies, a pin row an index a port can have.
-/
namespace Sys2Proof

/-- A register lies at the offset on some family: the multiples of 4 from 0x000 to 0x028 (20_memory.md R61). -/
def mappedOffset (o : Offset) : Bool := o.toNat % 4 == 0 && decide (o.toNat ≤ 0x028)

/-- The static checks: RD_BAD and WR_BAD stand for offsets that are none of the eleven (40_bus_read.md R133,
41_bus_write.md R154; 0x028 on F4 has rows of its own); a pin index is below the largest PIN_COUNT, 16
(00_scope.md R7). What depends on the port's state or configuration is the row's condition (rowCondition). -/
def WellFormed : Instr → Bool
  | .rdDisabled _ => true
  | .rdModer => true
  | .rdOtyper => true
  | .rdOspeedr => true
  | .rdPupdr => true
  | .rdIdr => true
  | .rdOdr => true
  | .rdBsrr => true
  | .rdLckr => true
  | .rdAfrl => true
  | .rdAfrh => true
  | .rdBrr => true
  | .rdBrrF4 => true
  | .rdBad o => !mappedOffset o
  | .wrDisabled _ _ => true
  | .wrModer _ => true
  | .wrOtyper _ => true
  | .wrOspeedr _ => true
  | .wrPupdr _ => true
  | .wrIdr _ => true
  | .wrOdr _ => true
  | .wrBsrr _ => true
  | .wrLckr _ => true
  | .wrAfrl _ => true
  | .wrAfrh _ => true
  | .wrBrr _ => true
  | .wrBrrF4 _ => true
  | .wrBad o _ => !mappedOffset o
  | .resetAssert => true
  | .resetDeassert => true
  | .resetHold _ => true
  | .enableChange _ => true
  | .enableHold _ => true
  | .pinBadindex _ _ => true
  | .pinFloat i => decide (i < 16)
  | .pinLow i => decide (i < 16)
  | .pinHigh i => decide (i < 16)
  | .resolve => true

end Sys2Proof
end

