-- ==== Sys2Proof/Decode.lean ====
section
/-!
DEFINITION. From a presented operation to its encoded form (30_encoding.md R90 to R94, R102, R105), from the encoded
form to the row that runs (decode, R105), and back (encode). Decoding is total and rejects by name.
-/
namespace Sys2Proof

/-- Why an operation has no row. Only the first can happen to a presented operation (log entry 16). -/
inductive DecodeReject
  /-- A bus access that is not 4 bytes wide or lies outside the window (60_exceptions.md R206). -/
  | access (size : Nat) (offset : Int)
  /-- A bus selector with w = 0 that carries write data. -/
  | readWithData
  /-- A bus selector with w = 1 that carries no write data. -/
  | writeWithoutData
  /-- The class 0b11 of a pin-input value: no integer has it (30_encoding.md R102). -/
  | pinClassUnused
  deriving DecidableEq, Repr

/-! ## The register map -/

/-- The offset of each register (20_memory.md R61). -/
def regOffset : Reg → Offset
  | .moder   => 0x000#10
  | .otyper  => 0x004#10
  | .ospeedr => 0x008#10
  | .pupdr   => 0x00C#10
  | .idr     => 0x010#10
  | .odr     => 0x014#10
  | .bsrr    => 0x018#10
  | .lckr    => 0x01C#10
  | .afrl    => 0x020#10
  | .afrh    => 0x024#10
  | .brr     => 0x028#10

def allRegs : List Reg :=
  [.moder, .otyper, .ospeedr, .pupdr, .idr, .odr, .bsrr, .lckr, .afrl, .afrh, .brr]

/-- The register at an offset: an exact comparison with the eleven offsets (20_memory.md R64, 30_encoding.md R105). -/
def regAt (o : Offset) : Option Reg := allRegs.find? (fun r => regOffset r == o)

/-! ## Presented operation to encoded form -/

/-- An integer line level is read as `level != 0` (30_encoding.md R92, R93). -/
def lineLevel (v : Int) : Bool := decide (v ≠ 0)

/-- The class of a pin-input value by its sign (30_encoding.md R102): FLOAT 0b10, LOW 0b00, HIGH 0b01. -/
def pinClass (v : Int) : BitVec 2 := if v < 0 then 0b10#2 else if v = 0 then 0b00#2 else 0b01#2

/-- The access contract (20_memory.md R63, 60_exceptions.md R206): 4 bytes wide, inside the 1024-byte window. -/
def deliverable (size : Nat) (offset : Int) : Bool :=
  decide (size = 4) && decide (0 ≤ offset) && decide (offset < 0x400)

/-- The bus selector {w, offset[9:0]} (30_encoding.md R105). -/
def busSelector (w : Bool) (o : Offset) : BitVec 11 := BitVec.ofBool w ++ o

/-- The line selector {new level, tracked level} (30_encoding.md R105). -/
def lineSelector (new tracked : Bool) : BitVec 2 := BitVec.ofBool new ++ BitVec.ofBool tracked

/-- The encoded form of a presented operation; an access that the dispatcher never delivers has none (R206). -/
def encodingOf (c : DecodeContext) : Operation → Except DecodeReject Encoding
  | .busRead size offset =>
      if deliverable size offset then .ok (.bus (busSelector false (BitVec.ofInt 10 offset)) none)
      else .error (.access size offset)
  | .busWrite size offset wdata =>
      if deliverable size offset then .ok (.bus (busSelector true (BitVec.ofInt 10 offset)) (some wdata))
      else .error (.access size offset)
  | .lineReset level  => .ok (.lineReset (lineSelector (lineLevel level) c.resetAsserted))
  | .lineEnable level => .ok (.lineEnable (lineSelector (lineLevel level) c.enabled))
  | .linePin i v      => .ok (.linePin i (pinClass v))

/-! ## Decode -/

/-- Decode of a bus read (30_encoding.md R105): the enable gate first, then the offset, then FAMILY at 0x028. -/
def decodeRead (c : DecodeContext) (o : Offset) : Instr :=
  if c.enabled = false then .rdDisabled o
  else
    match regAt o with
    | some .moder   => .rdModer
    | some .otyper  => .rdOtyper
    | some .ospeedr => .rdOspeedr
    | some .pupdr   => .rdPupdr
    | some .idr     => .rdIdr
    | some .odr     => .rdOdr
    | some .bsrr    => .rdBsrr
    | some .lckr    => .rdLckr
    | some .afrl    => .rdAfrl
    | some .afrh    => .rdAfrh
    | some .brr     => if c.family = .f4 then .rdBrrF4 else .rdBrr
    | none          => .rdBad o

/-- Decode of a bus write (30_encoding.md R105). -/
def decodeWrite (c : DecodeContext) (o : Offset) (wdata : Word) : Instr :=
  if c.enabled = false then .wrDisabled o wdata
  else
    match regAt o with
    | some .moder   => .wrModer wdata
    | some .otyper  => .wrOtyper wdata
    | some .ospeedr => .wrOspeedr wdata
    | some .pupdr   => .wrPupdr wdata
    | some .idr     => .wrIdr wdata
    | some .odr     => .wrOdr wdata
    | some .bsrr    => .wrBsrr wdata
    | some .lckr    => .wrLckr wdata
    | some .afrl    => .wrAfrl wdata
    | some .afrh    => .wrAfrh wdata
    | some .brr     => if c.family = .f4 then .wrBrrF4 wdata else .wrBrr wdata
    | none          => .wrBad o wdata

/-- LINE_RESET (30_encoding.md R105): 0b10 RESET_ASSERT, 0b01 RESET_DEASSERT, 0b00 and 0b11 RESET_HOLD. -/
def decodeReset (sel : BitVec 2) : Instr :=
  if sel = 0b10#2 then .resetAssert
  else if sel = 0b01#2 then .resetDeassert
  else .resetHold (sel.getLsbD 1)

/-- LINE_ENABLE (30_encoding.md R105): 0b10 and 0b01 ENABLE_CHANGE, 0b00 and 0b11 ENABLE_HOLD. -/
def decodeEnable (sel : BitVec 2) : Instr :=
  if sel.getLsbD 1 = sel.getLsbD 0 then .enableHold (sel.getLsbD 1) else .enableChange (sel.getLsbD 1)

/-- The pin index is one of the port's pins (43_signal_lines.md R186, R190; an index type that allows it includes
negative indices). -/
def pinIndexOk (pinCount : Nat) (i : Int) : Bool := decide (0 ≤ i) && decide (i < (pinCount : Int))

/-- LINE_PIN (30_encoding.md R105): the index first, then the class of R102. -/
def decodePin (c : DecodeContext) (i : Int) (cls : BitVec 2) : Except DecodeReject Instr :=
  if pinIndexOk c.pinCount i then
    if cls = 0b10#2 then .ok (.pinFloat i.toNat)
    else if cls = 0b00#2 then .ok (.pinLow i.toNat)
    else if cls = 0b01#2 then .ok (.pinHigh i.toNat)
    else .error .pinClassUnused
  else .ok (.pinBadindex i cls)

/-- The whole decoder (30_encoding.md R105). -/
def decode (c : DecodeContext) : Encoding → Except DecodeReject Instr
  | .bus sel none =>
      if sel.getLsbD 10 then .error .writeWithoutData else .ok (decodeRead c (sel.setWidth 10))
  | .bus sel (some wdata) =>
      if sel.getLsbD 10 then .ok (decodeWrite c (sel.setWidth 10) wdata) else .error .readWithData
  | .lineReset sel  => .ok (decodeReset sel)
  | .lineEnable sel => .ok (decodeEnable sel)
  | .linePin i cls  => decodePin c i cls

/-! ## The condition of each row, and the encoder -/

/-- The column "condition" of opcode_table.json (with the fixed selector bits that are state): when decoding can select
the row. RESOLVE is never selected (42_resolve.md R160). -/
def rowCondition (c : DecodeContext) : Instr → Bool
  | .rdDisabled _ => !c.enabled
  | .rdModer => c.enabled
  | .rdOtyper => c.enabled
  | .rdOspeedr => c.enabled
  | .rdPupdr => c.enabled
  | .rdIdr => c.enabled
  | .rdOdr => c.enabled
  | .rdBsrr => c.enabled
  | .rdLckr => c.enabled
  | .rdAfrl => c.enabled
  | .rdAfrh => c.enabled
  | .rdBrr => c.enabled && decide (c.family ≠ .f4)
  | .rdBrrF4 => c.enabled && decide (c.family = .f4)
  | .rdBad _ => c.enabled
  | .wrDisabled _ _ => !c.enabled
  | .wrModer _ => c.enabled
  | .wrOtyper _ => c.enabled
  | .wrOspeedr _ => c.enabled
  | .wrPupdr _ => c.enabled
  | .wrIdr _ => c.enabled
  | .wrOdr _ => c.enabled
  | .wrBsrr _ => c.enabled
  | .wrLckr _ => c.enabled
  | .wrAfrl _ => c.enabled
  | .wrAfrh _ => c.enabled
  | .wrBrr _ => c.enabled && decide (c.family ≠ .f4)
  | .wrBrrF4 _ => c.enabled && decide (c.family = .f4)
  | .wrBad _ _ => c.enabled
  | .resetAssert => !c.resetAsserted
  | .resetDeassert => c.resetAsserted
  | .resetHold level => level == c.resetAsserted
  | .enableChange level => level != c.enabled
  | .enableHold level => level == c.enabled
  | .pinBadindex i _ => !pinIndexOk c.pinCount i
  | .pinFloat i => decide (i < c.pinCount)
  | .pinLow i => decide (i < c.pinCount)
  | .pinHigh i => decide (i < c.pinCount)
  | .resolve => false

/-- The encoded form of each row (30_encoding.md R105, the match column of opcode_table.json). RESOLVE has none. -/
def encode : Instr → Option Encoding
  | .rdDisabled o => some (.bus (busSelector false o) none)
  | .rdModer => some (.bus 0x000#11 none)
  | .rdOtyper => some (.bus 0x004#11 none)
  | .rdOspeedr => some (.bus 0x008#11 none)
  | .rdPupdr => some (.bus 0x00C#11 none)
  | .rdIdr => some (.bus 0x010#11 none)
  | .rdOdr => some (.bus 0x014#11 none)
  | .rdBsrr => some (.bus 0x018#11 none)
  | .rdLckr => some (.bus 0x01C#11 none)
  | .rdAfrl => some (.bus 0x020#11 none)
  | .rdAfrh => some (.bus 0x024#11 none)
  | .rdBrr => some (.bus 0x028#11 none)
  | .rdBrrF4 => some (.bus 0x028#11 none)
  | .rdBad o => some (.bus (busSelector false o) none)
  | .wrDisabled o w => some (.bus (busSelector true o) (some w))
  | .wrModer w => some (.bus 0x400#11 (some w))
  | .wrOtyper w => some (.bus 0x404#11 (some w))
  | .wrOspeedr w => some (.bus 0x408#11 (some w))
  | .wrPupdr w => some (.bus 0x40C#11 (some w))
  | .wrIdr w => some (.bus 0x410#11 (some w))
  | .wrOdr w => some (.bus 0x414#11 (some w))
  | .wrBsrr w => some (.bus 0x418#11 (some w))
  | .wrLckr w => some (.bus 0x41C#11 (some w))
  | .wrAfrl w => some (.bus 0x420#11 (some w))
  | .wrAfrh w => some (.bus 0x424#11 (some w))
  | .wrBrr w => some (.bus 0x428#11 (some w))
  | .wrBrrF4 w => some (.bus 0x428#11 (some w))
  | .wrBad o w => some (.bus (busSelector true o) (some w))
  | .resetAssert => some (.lineReset 0b10#2)
  | .resetDeassert => some (.lineReset 0b01#2)
  | .resetHold level => some (.lineReset (lineSelector level level))
  | .enableChange level => some (.lineEnable (lineSelector level !level))
  | .enableHold level => some (.lineEnable (lineSelector level level))
  | .pinBadindex i cls => some (.linePin i cls)
  | .pinFloat i => some (.linePin (i : Int) 0b10#2)
  | .pinLow i => some (.linePin (i : Int) 0b00#2)
  | .pinHigh i => some (.linePin (i : Int) 0b01#2)
  | .resolve => none

/-- A presented operation (30_encoding.md R110) that has the given encoded form, where there is one: the magnitude of a
pin-input value carries nothing (R102), so -1, 0 and 1 stand for the classes. -/
def operationOf : Encoding → Option Operation
  | .bus sel none =>
      if sel.getLsbD 10 then none else some (.busRead 4 ((sel.setWidth 10).toNat : Int))
  | .bus sel (some wdata) =>
      if sel.getLsbD 10 then some (.busWrite 4 ((sel.setWidth 10).toNat : Int) wdata) else none
  | .lineReset sel  => some (.lineReset (if sel.getLsbD 1 then 1 else 0))
  | .lineEnable sel => some (.lineEnable (if sel.getLsbD 1 then 1 else 0))
  | .linePin i cls  =>
      if cls = 0b10#2 then some (.linePin i (-1))
      else if cls = 0b00#2 then some (.linePin i 0)
      else if cls = 0b01#2 then some (.linePin i 1)
      else none

/-! ## The opcode table's words -/

/-- The context in which a word of opcode_table.json is read: the standard configuration, as State.reset has it. -/
def tableContext : DecodeContext :=
  { family := Config.standard.family, pinCount := Config.standard.pinCount.val,
    enabled := Config.standard.initEnabled, resetAsserted := false }

/-- The encoded form that a word of the table stands for. More than 8 bits: the 11-bit bus selector, write data 0.
At most 8 bits: a line selector; the table gives the same two bits to three line formats, and the first row in the
table's order with a fixed selector that matches is taken (log entry 8): 0b10 and 0b01 the reset line's edges, 0b00
PIN_LOW (its pin index has no bits, hence 0). -/
def tableEncoding (nbits w : Nat) : Option Encoding :=
  if 8 < nbits then
    if w < 2 ^ 11 then
      some (.bus (BitVec.ofNat 11 w) (if w < 2 ^ 10 then none else some 0#32))
    else none
  else if w = 0b10 then some (.lineReset 0b10#2)
  else if w = 0b01 then some (.lineReset 0b01#2)
  else if w = 0b00 then some (.linePin 0 0b00#2)
  else none

/-- The instruction the decoder reads from a word of opcode_table.json. -/
def decodeTableWord (nbits w : Nat) : Option Instr :=
  match tableEncoding nbits w with
  | none => none
  | some e =>
    match decode tableContext e with
    | .ok i => some i
    | .error _ => none

end Sys2Proof
end

