-- ==== Sys2Proof/Machine/State.lean ====
section
/-!
DEFINITION. The state of one port (10_state.md R20), its outputs (00_scope.md R10), why a step can stop, the
construction state (70_reset_and_hazards.md R240) and the state after reset (R242).
-/
namespace Sys2Proof.Machine

/-- The mode of a pin (30_encoding.md R98). -/
inductive Mode
  | input | output | alternateFunction | analog
  deriving DecidableEq, Repr

/-- The pull of a pin (30_encoding.md R99); code 3 has no name and is storable. -/
inductive Pull
  | none | up | down | unnamed
  deriving DecidableEq, Repr

/-- The four diagnostics (60_exceptions.md R200 to R204) with the argument each carries. -/
inductive Diag
  | disabled (offset : Offset)
  | badOffset (offset : Offset)
  | readOnly (offset : Offset)
  | short (pin : Nat)
  deriving DecidableEq, Repr

/-- The output events of an operation (00_scope.md R10). -/
inductive Event
  | pinChanged (pin : Nat) (level : Bool)
  | stateChangedRise
  | stateChangedFall
  | diag (d : Diag)
  deriving DecidableEq, Repr

/-- The port raises no fault: every violation has a defined fallback (60_exceptions.md R216; 93_implementation_defined.md:
no behaviour is treated as `fault`, `stuck` or `any value`). -/
inductive Fault
  deriving DecidableEq, Repr

/-- Why a step gives no next state. -/
inductive Refusal
  /-- exec's arm of an instruction that has no meaning yet; none is left. Safe. -/
  | notModelled (mnemonic : String)
  /-- PIN_INDEX (60_exceptions.md R205): a pin-input event with an index outside the port, raised by the PIN meanings.
  Safe: the spec says the operation is refused. -/
  | pinIndex (i : Int)
  /-- ACCESS (60_exceptions.md R206): a bus access that is not 4 bytes wide or lies outside the window, raised by the
  fetch of the operation. Safe: the spec says the access is refused. -/
  | access (size : Nat) (offset : Int)
  /-- An encoded operation without a row; the fetch would raise it and no presented operation leads to it. Safe. -/
  | noSuchEncoding (r : DecodeReject)
  deriving DecidableEq, Repr

/-- The state of a port. The fields from moder to stateChangedLevel are the spec's (10_state.md R20); cfg is the
configuration (log entry 4); pending, rdata and events are the model's own, the input and output of a step
(log entries 1 and 3). -/
structure State where
  cfg               : Config
  moder             : Word
  otyper            : Word
  ospeedr           : Word
  pupdr             : Word
  idr               : Word
  odr               : Word
  lckr              : Word
  afrl              : Word
  afrh              : Word
  externalLevel     : PinVec
  externalDriven    : PinVec
  resetAsserted     : Bool
  peripheralEnabled : Bool
  pinChangedLevel   : PinVec
  stateChangedLevel : Bool
  pending           : List Operation
  rdata             : Option Word
  events            : List Event
  deriving DecidableEq, Repr

/-- The construction (power-on) state of a port with configuration c (70_reset_and_hazards.md R240). -/
def State.construct (c : Config) : State :=
  { cfg := c
    moder := 0, otyper := 0, ospeedr := 0, pupdr := 0, idr := 0, odr := 0, lckr := 0, afrl := 0, afrh := 0
    externalLevel := 0, externalDriven := 0
    resetAsserted := false, peripheralEnabled := c.initEnabled
    pinChangedLevel := 0, stateChangedLevel := false
    pending := [], rdata := none, events := [] }

/-- The state right after reset of a port in the standard configuration: the reset line pulsed once
(70_reset_and_hazards.md R242 and R244 step 2; 10_state.md R47 and R48). MODER, PUPDR and IDR are the F4 port A values
of R242. peripheralEnabled is INIT_ENABLED, which the spec leaves OPEN: DESIGN CHOICE true, unsafe (log entry 5).
Nothing is presented and no output is held (log entries 1, 3, 7). -/
def State.reset : State :=
  { cfg := Config.standard
    moder := 0xA8000000, otyper := 0, ospeedr := 0, pupdr := 0x64000000, idr := 0x0000A000, odr := 0
    lckr := 0, afrl := 0, afrh := 0
    externalLevel := 0, externalDriven := 0
    resetAsserted := false, peripheralEnabled := Config.standard.initEnabled
    pinChangedLevel := 0, stateChangedLevel := false
    pending := [], rdata := none, events := [] }

end Sys2Proof.Machine
end

