-- ==== Sys2Proof/Machine/Operands.lean ====
section
/-!
DEFINITION. Operand forms: the per-pin fields of each register (30_encoding.md R95 to R99), the BSRR and BRR operands
(R100, R101), single-bit writes (00_scope.md R14).
-/
namespace Sys2Proof.Machine

/-! ## Bits and fields -/

/-- `x[i] <- b`: one bit written, the others unchanged (00_scope.md R14). -/
def setBit {n : Nat} (v : BitVec n) (i : Nat) (b : Bool) : BitVec n :=
  (v &&& ~~~(BitVec.twoPow n i)) ||| (if b then BitVec.twoPow n i else 0#n)

/-- The 2-bit field of pin i (30_encoding.md R95): `(REG >> (2*i)) & 0b11`. -/
def field2 (v : Word) (i : Nat) : BitVec 2 := (v >>> (2 * i)).setWidth 2

/-- The insertion formula of 30_encoding.md R95: `(REG & ~(0b11 << 2i)) | (f << 2i)`. -/
def insertField2 (v : Word) (i : Nat) (f : BitVec 2) : Word :=
  (v &&& ~~~(0b11#32 <<< (2 * i))) ||| (f.setWidth 32 <<< (2 * i))

/-- A 4-bit field, the k-th of its register (30_encoding.md R97). -/
def field4 (v : Word) (k : Nat) : BitVec 4 := (v >>> (4 * k)).setWidth 4

/-! ## Codes -/

/-- Mode codes (30_encoding.md R98). -/
def modeOfCode (c : BitVec 2) : Mode :=
  if c = 0#2 then .input else if c = 1#2 then .output else if c = 2#2 then .alternateFunction else .analog

/-- Pull codes (30_encoding.md R99). -/
def pullOfCode (c : BitVec 2) : Pull :=
  if c = 0#2 then .none else if c = 1#2 then .up else if c = 2#2 then .down else .unnamed

/-! ## The per-pin fields of the registers -/

/-- `mode(i) = MODER[2i+1:2i]` (10_state.md R22). -/
def modeOf (s : State) (i : Nat) : Mode := modeOfCode (field2 s.moder i)

/-- `pull(i) = PUPDR[2i+1:2i]` (10_state.md R25). -/
def pullOf (s : State) (i : Nat) : Pull := pullOfCode (field2 s.pupdr i)

/-- The output type bit of pin i (10_state.md R23): stored, never interpreted. -/
def outputTypeOf (s : State) (i : Nat) : Bool := s.otyper.getLsbD i

/-- The output speed field of pin i (10_state.md R24): stored, never interpreted. -/
def outputSpeedOf (s : State) (i : Nat) : BitVec 2 := field2 s.ospeedr i

/-- The lock bit of pin i (10_state.md R29): stored, never interpreted. -/
def lockOf (s : State) (i : Nat) : Bool := s.lckr.getLsbD i

/-- The alternate-function selector of pin i (10_state.md R30, R31): AFRL for pins 0 to 7, AFRH for 8 to 15. -/
def alternateFunctionOf (s : State) (i : Nat) : BitVec 4 :=
  if i < 8 then field4 s.afrl i else field4 s.afrh (i - 8)

/-! ## Write operands -/

/-- `set_mask = wdata & 0xFFFF`, zero-extended (30_encoding.md R100). -/
def bsrrSetMask (wdata : Word) : Word := wdata &&& 0xFFFF#32

/-- `reset_mask = (wdata >> 16) & 0xFFFF`, zero-extended (30_encoding.md R100). -/
def bsrrResetMask (wdata : Word) : Word := (wdata >>> 16) &&& 0xFFFF#32

/-- `reset_mask = wdata & 0xFFFF`, zero-extended (30_encoding.md R101). -/
def brrResetMask (wdata : Word) : Word := wdata &&& 0xFFFF#32

/-- `(ODR & ~reset_mask) | set_mask`: set has priority over reset (41_bus_write.md R148). -/
def setReset (odr setMask resetMask : Word) : Word := (odr &&& ~~~resetMask) ||| setMask

/-- `ODR & ~reset_mask` (41_bus_write.md R152). -/
def resetOnly (odr resetMask : Word) : Word := odr &&& ~~~resetMask

end Sys2Proof.Machine
end

