-- ==== Sys2Proof/Machine/Flags.lean ====
section
/-!
DEFINITION. The block has no arithmetic flags (10_state.md section 5). Its status bits are the two control flags
(R35, R36) and the output line levels (R37); these are the writes of each.
-/
namespace Sys2Proof.Machine

/-- `reset_asserted <- b` (10_state.md R35). -/
def setResetAsserted (b : Bool) (s : State) : State := { s with resetAsserted := b }

/-- `peripheral_enabled <- b` (10_state.md R36). -/
def setEnabled (b : Bool) (s : State) : State := { s with peripheralEnabled := b }

/-- `pin_changed_level[i] <- b` (10_state.md R37). -/
def setPinChanged (i : Nat) (b : Bool) (s : State) : State :=
  { s with pinChangedLevel := setBit s.pinChangedLevel i b }

/-- `state_changed_level <- b` (10_state.md R37). -/
def setStateChanged (b : Bool) (s : State) : State := { s with stateChangedLevel := b }

end Sys2Proof.Machine
end

