-- ==== Sys2Proof/Machine/Ops.lean ====
section
/-!
DEFINITION. The operations all meanings share: outputs, diagnostics (the port's only "exceptions": emit and go on,
60_exceptions.md R207, R216), the registers' bulk writes of reset, and the fetch of the next presented operation.
There is no byte memory (20_memory.md R60, R65; log entry 9).
-/
namespace Sys2Proof.Machine

/-! ## Outputs -/

/-- The start of an operation: the outputs held are those of the operation before (log entry 3). -/
def startOperation (s : State) : State := { s with rdata := none, events := [] }

/-- `emit <Event>`: append an output event (00_scope.md R14). -/
def emit (e : Event) (s : State) : State := { s with events := s.events ++ [e] }

/-- `diag <Kind>(arg)`: append a diagnostic and continue (00_scope.md R14, 60_exceptions.md R207). -/
def diag (d : Diag) (s : State) : State := emit (.diag d) s

/-- `rdata <- v` (00_scope.md R9). -/
def returnData (v : Word) (s : State) : State := { s with rdata := some v }

/-- `IDR[i] <- b` (42_resolve.md R165). -/
def setIdrBit (i : Nat) (b : Bool) (s : State) : State := { s with idr := setBit s.idr i b }

/-! ## External drive -/

/-- `external_driven[i] <- b` (10_state.md R34). -/
def setDriven (i : Nat) (b : Bool) (s : State) : State := { s with externalDriven := setBit s.externalDriven i b }

/-- `external_level[i] <- b` (10_state.md R33). -/
def setLevel (i : Nat) (b : Bool) (s : State) : State := { s with externalLevel := setBit s.externalLevel i b }

/-! ## Reset values -/

/-- The device defaults of a family and port (10_state.md R47). -/
structure Defaults where
  moder   : Word
  pupdr   : Word
  ospeedr : Word
  deriving DecidableEq, Repr

/-- ResetDefaults(FAMILY, PORT) (10_state.md R47). -/
def resetDefaults (f : Family) (port : Nat) : Defaults :=
  if f = .f4 ∧ port = 0 then { moder := 0xA8000000, pupdr := 0x64000000, ospeedr := 0x00000000 }
  else if f = .f4 ∧ port = 1 then { moder := 0x00000280, pupdr := 0x00000100, ospeedr := 0x000000C0 }
  else { moder := 0, pupdr := 0, ospeedr := 0 }

/-- "set every bus-visible register to 0" (43_signal_lines.md R181), IDR included. -/
def zeroRegisters (s : State) : State :=
  { s with moder := 0, otyper := 0, ospeedr := 0, pupdr := 0, idr := 0, odr := 0, lckr := 0, afrl := 0, afrh := 0 }

/-- "then apply ... hardware defaults" (43_signal_lines.md R181). -/
def applyDefaults (s : State) : State :=
  let d := resetDefaults s.cfg.family s.cfg.port
  { s with moder := d.moder, pupdr := d.pupdr, ospeedr := d.ospeedr }

/-! ## The next operation -/

/-- What decoding reads of the state (30_encoding.md R105). -/
def decodeContext (s : State) : DecodeContext :=
  { family := s.cfg.family, pinCount := s.cfg.pinCount.val,
    enabled := s.peripheralEnabled, resetAsserted := s.resetAsserted }

/-- The refusal of an operation without a row: ACCESS by its own name (60_exceptions.md R206). -/
def refusalOf : DecodeReject → Refusal
  | .access size offset => .access size offset
  | .readWithData       => .noSuchEncoding .readWithData
  | .writeWithoutData   => .noSuchEncoding .writeWithoutData
  | .pinClassUnused     => .noSuchEncoding .pinClassUnused

/-- What the port does with a presented operation: the row R105 selects, or why there is none (R206). -/
def fetch (s : State) (op : Operation) : Except Refusal Instr :=
  match encodingOf (decodeContext s) op with
  | .error r => .error (refusalOf r)
  | .ok e =>
    match decode (decodeContext s) e with
    | .error r => .error (refusalOf r)
    | .ok i => .ok i

/-- The operation leaves the queue when it is taken (log entry 1). -/
def takeOperation (rest : List Operation) (s : State) : State := { s with pending := rest }

/-- The state in which R105 selects row i: only what the row's condition names is changed (log entry 8). -/
def selectRow (i : Instr) (s : State) : State :=
  match i with
  | .rdDisabled _ | .wrDisabled _ _ => setEnabled false s
  | .rdBrr | .wrBrr _ => { setEnabled true s with cfg := { s.cfg with family := .other } }
  | .rdBrrF4 | .wrBrrF4 _ => { setEnabled true s with cfg := { s.cfg with family := .f4 } }
  | .rdModer | .rdOtyper | .rdOspeedr | .rdPupdr | .rdIdr | .rdOdr | .rdBsrr | .rdLckr | .rdAfrl | .rdAfrh
  | .rdBad _ | .wrModer _ | .wrOtyper _ | .wrOspeedr _ | .wrPupdr _ | .wrIdr _ | .wrOdr _ | .wrBsrr _ | .wrLckr _
  | .wrAfrl _ | .wrAfrh _ | .wrBad _ _ => setEnabled true s
  | .resetAssert => setResetAsserted false s
  | .resetDeassert => setResetAsserted true s
  | .resetHold level => setResetAsserted level s
  | .enableChange level => setEnabled (!level) s
  | .enableHold level => setEnabled level s
  | .pinFloat i | .pinLow i | .pinHigh i =>
      if i < s.cfg.pinCount.val then s else { s with cfg := { s.cfg with pinCount := 16 } }
  | .pinBadindex _ _ | .resolve => s

/-- Present an operation so that it is the next one taken. -/
def presentFirst (op : Operation) (s : State) : State := { s with pending := op :: s.pending }

/-- The host's placement of a table word (Step.lean): the operation it encodes is presented first, and the port is put
in the state in which R105 selects its row. A word that decodes to nothing places nothing. -/
def placeTableWord (s : State) (nbits w : Nat) : State :=
  match tableEncoding nbits w, decodeTableWord nbits w with
  | some e, some i =>
    match operationOf e with
    | some op => presentFirst op (selectRow i s)
    | none => s
  | _, _ => s

end Sys2Proof.Machine
end

