-- ==== Sys2Proof/Machine/BusRead.lean ====
section
/-!
DEFINITION. The bus reads (40_bus_read.md): one meaning per row.
-/
namespace Sys2Proof.Machine

/-- A read while the port is disabled (40_bus_read.md R120): the diagnostic and 0. -/
def disabledRead (o : Offset) (s : State) : State := returnData 0 (diag (.disabled o) (startOperation s))

/-- A read of an offset without a register (40_bus_read.md R132, R133): the diagnostic and 0. -/
def badRead (o : Offset) (s : State) : State := returnData 0 (diag (.badOffset o) s)

/-- The gate every bus read passes first (20_memory.md R68, 40_bus_read.md R120), then the row's own effect. -/
def busRead (o : Offset) (effect : State → State) (s : State) : Host.Outcome State Fault Refusal :=
  .next (if s.peripheralEnabled then effect (startOperation s) else disabledRead o s)

/-- What lies at 0x028 (30_encoding.md R104): nothing on F4, else BRR, which reads 0 (40_bus_read.md R131, R132). -/
def readBrrOffset (s : State) : State :=
  if s.cfg.family = .f4 then badRead (regOffset .brr) s else returnData 0 s

/-- RD_DISABLED (40_bus_read.md R120): what the gate of every read does when it is closed. -/
def execRdDisabled (o : Offset) (s : State) : Host.Outcome State Fault Refusal := .next (disabledRead o s)

/-- RD_MODER (40_bus_read.md R121). -/
def execRdModer (s : State) : Host.Outcome State Fault Refusal :=
  busRead (regOffset .moder) (fun t => returnData t.moder t) s

/-- RD_OTYPER (40_bus_read.md R122). -/
def execRdOtyper (s : State) : Host.Outcome State Fault Refusal :=
  busRead (regOffset .otyper) (fun t => returnData t.otyper t) s

/-- RD_OSPEEDR (40_bus_read.md R123). -/
def execRdOspeedr (s : State) : Host.Outcome State Fault Refusal :=
  busRead (regOffset .ospeedr) (fun t => returnData t.ospeedr t) s

/-- RD_PUPDR (40_bus_read.md R124). -/
def execRdPupdr (s : State) : Host.Outcome State Fault Refusal :=
  busRead (regOffset .pupdr) (fun t => returnData t.pupdr t) s

/-- RD_IDR (40_bus_read.md R125): what the last pass stored, not a new resolution. -/
def execRdIdr (s : State) : Host.Outcome State Fault Refusal :=
  busRead (regOffset .idr) (fun t => returnData t.idr t) s

/-- RD_ODR (40_bus_read.md R126). -/
def execRdOdr (s : State) : Host.Outcome State Fault Refusal :=
  busRead (regOffset .odr) (fun t => returnData t.odr t) s

/-- RD_BSRR (40_bus_read.md R127): always 0, no diagnostic. -/
def execRdBsrr (s : State) : Host.Outcome State Fault Refusal :=
  busRead (regOffset .bsrr) (fun t => returnData 0 t) s

/-- RD_LCKR (40_bus_read.md R128). -/
def execRdLckr (s : State) : Host.Outcome State Fault Refusal :=
  busRead (regOffset .lckr) (fun t => returnData t.lckr t) s

/-- RD_AFRL (40_bus_read.md R129). -/
def execRdAfrl (s : State) : Host.Outcome State Fault Refusal :=
  busRead (regOffset .afrl) (fun t => returnData t.afrl t) s

/-- RD_AFRH (40_bus_read.md R130). -/
def execRdAfrh (s : State) : Host.Outcome State Fault Refusal :=
  busRead (regOffset .afrh) (fun t => returnData t.afrh t) s

/-- RD_BRR (40_bus_read.md R131): 0 without diagnostic where the register exists. -/
def execRdBrr (s : State) : Host.Outcome State Fault Refusal := busRead (regOffset .brr) readBrrOffset s

/-- RD_BRR_F4 (40_bus_read.md R132): the bad-offset path on F4. -/
def execRdBrrF4 (s : State) : Host.Outcome State Fault Refusal := busRead (regOffset .brr) readBrrOffset s

/-- RD_BAD (40_bus_read.md R133). -/
def execRdBad (o : Offset) (s : State) : Host.Outcome State Fault Refusal := busRead o (badRead o) s

end Sys2Proof.Machine
end

