-- ==== Sys2Proof/Machine/Resolve.lean ====
section
/-!
DEFINITION. The resolution routine (42_resolve.md): multiplexer, conflict detector, edge detector, arbiter.
-/
namespace Sys2Proof.Machine

/-- The three-way multiplexer (42_resolve.md R163): the outside driver, else the output-data bit of an OUTPUT pin,
else whether the pull is UP. -/
def muxLevel (m : Mode) (p : Pull) (od xl xd : Bool) : Bool :=
  if xd then xl
  else if m = .output then od
  else decide (p = .up)

/-- Level(i) of 10_state.md R40, from the five inputs of pin i (42_resolve.md R161). -/
def pinLevel (s : State) (i : Nat) : Bool :=
  muxLevel (modeOf s i) (pullOf s i) (s.odr.getLsbD i) (s.externalLevel.getLsbD i) (s.externalDriven.getLsbD i)

/-- The conflict detector (42_resolve.md R162). -/
def isShorted (s : State) (i : Nat) : Bool := decide (modeOf s i = .output) && s.externalDriven.getLsbD i

/-- Step 2 of the routine: the short-circuit diagnostic (42_resolve.md R162). -/
def reportShort (i : Nat) (s : State) : State := if isShorted s i then diag (.short i) s else s

/-- Step 5 of the routine: the edge detector (42_resolve.md R166); prev is IDR[i] as step 1 read it. -/
def notifyChange (i : Nat) (prev new : Bool) (s : State) : State :=
  if new ≠ prev ∧ modeOf s i = .input then setPinChanged i new (emit (.pinChanged i new) s) else s

/-- One pin of the routine, steps 1 to 5 in order (42_resolve.md R160). -/
def resolvePin (s : State) (i : Nat) : State :=
  let prev := s.idr.getLsbD i
  let new := pinLevel s i
  notifyChange i prev new (setIdrBit i new (reportShort i s))

/-- The closing pulse: rise, then fall (42_resolve.md R160, R167). -/
def pulse (s : State) : State :=
  setStateChanged false (emit .stateChangedFall (setStateChanged true (emit .stateChangedRise s)))

/-- The loop of the routine over the first n pins, ascending (42_resolve.md R160). -/
def resolveFirst (n : Nat) (s : State) : State :=
  match n with
  | 0 => s
  | k + 1 => resolvePin (resolveFirst k s) k

/-- `resolve_pins` (42_resolve.md R160). -/
def resolvePins (s : State) : State := pulse (resolveFirst s.cfg.pinCount.val s)

/-- RESOLVE (42_resolve.md R160): one pass by itself. No operation of the environment selects it. -/
def execResolve (s : State) : Host.Outcome State Fault Refusal := .next (resolvePins (startOperation s))

end Sys2Proof.Machine
end

