-- ==== Sys2Proof/Machine/BusWrite.lean ====
section
/-!
DEFINITION. The bus writes (41_bus_write.md): one meaning per row.
-/
namespace Sys2Proof.Machine

/-- A write while the port is disabled (41_bus_write.md R141): the diagnostic, nothing else, no pass. -/
def disabledWrite (o : Offset) (s : State) : State := diag (.disabled o) (startOperation s)

/-- The common shape of every bus write (41_bus_write.md R140): the gate, the register-specific effect, one pass. -/
def busWrite (o : Offset) (effect : State → State) (s : State) : Host.Outcome State Fault Refusal :=
  .next (if s.peripheralEnabled then resolvePins (effect (startOperation s)) else disabledWrite o s)

/-- What a write to 0x028 does before the pass (30_encoding.md R104): BRR's effect, or the bad-offset path on F4
(41_bus_write.md R152, R153). -/
def writeBrrOffset (wdata : Word) (s : State) : State :=
  if s.cfg.family = .f4 then diag (.badOffset (regOffset .brr)) s
  else { s with odr := resetOnly s.odr (brrResetMask wdata) }

/-- WR_DISABLED (41_bus_write.md R141): what the gate of every write does when it is closed; wdata is lost. -/
def execWrDisabled (o : Offset) (_ : Word) (s : State) : Host.Outcome State Fault Refusal := .next (disabledWrite o s)

/-- WR_MODER (41_bus_write.md R142). -/
def execWrModer (wdata : Word) (s : State) : Host.Outcome State Fault Refusal :=
  busWrite (regOffset .moder) (fun t => { t with moder := wdata }) s

/-- WR_OTYPER (41_bus_write.md R143). -/
def execWrOtyper (wdata : Word) (s : State) : Host.Outcome State Fault Refusal :=
  busWrite (regOffset .otyper) (fun t => { t with otyper := wdata }) s

/-- WR_OSPEEDR (41_bus_write.md R144). -/
def execWrOspeedr (wdata : Word) (s : State) : Host.Outcome State Fault Refusal :=
  busWrite (regOffset .ospeedr) (fun t => { t with ospeedr := wdata }) s

/-- WR_PUPDR (41_bus_write.md R145). -/
def execWrPupdr (wdata : Word) (s : State) : Host.Outcome State Fault Refusal :=
  busWrite (regOffset .pupdr) (fun t => { t with pupdr := wdata }) s

/-- WR_IDR (41_bus_write.md R146): wdata is discarded, the diagnostic comes before the pass. -/
def execWrIdr (_ : Word) (s : State) : Host.Outcome State Fault Refusal :=
  busWrite (regOffset .idr) (fun t => diag (.readOnly (regOffset .idr)) t) s

/-- WR_ODR (41_bus_write.md R147): all 32 bits. -/
def execWrOdr (wdata : Word) (s : State) : Host.Outcome State Fault Refusal :=
  busWrite (regOffset .odr) (fun t => { t with odr := wdata }) s

/-- WR_BSRR (41_bus_write.md R148): set has priority over reset, ODR[31:16] is kept. -/
def execWrBsrr (wdata : Word) (s : State) : Host.Outcome State Fault Refusal :=
  busWrite (regOffset .bsrr)
    (fun t => { t with odr := setReset t.odr (bsrrSetMask wdata) (bsrrResetMask wdata) }) s

/-- WR_LCKR (41_bus_write.md R149): inert storage. -/
def execWrLckr (wdata : Word) (s : State) : Host.Outcome State Fault Refusal :=
  busWrite (regOffset .lckr) (fun t => { t with lckr := wdata }) s

/-- WR_AFRL (41_bus_write.md R150). -/
def execWrAfrl (wdata : Word) (s : State) : Host.Outcome State Fault Refusal :=
  busWrite (regOffset .afrl) (fun t => { t with afrl := wdata }) s

/-- WR_AFRH (41_bus_write.md R151). -/
def execWrAfrh (wdata : Word) (s : State) : Host.Outcome State Fault Refusal :=
  busWrite (regOffset .afrh) (fun t => { t with afrh := wdata }) s

/-- WR_BRR (41_bus_write.md R152): clears ODR bits where the register exists. -/
def execWrBrr (wdata : Word) (s : State) : Host.Outcome State Fault Refusal :=
  busWrite (regOffset .brr) (writeBrrOffset wdata) s

/-- WR_BRR_F4 (41_bus_write.md R153): the bad-offset path on F4, then the pass. -/
def execWrBrrF4 (wdata : Word) (s : State) : Host.Outcome State Fault Refusal :=
  busWrite (regOffset .brr) (writeBrrOffset wdata) s

/-- WR_BAD (41_bus_write.md R154): the diagnostic, then the pass. -/
def execWrBad (o : Offset) (_ : Word) (s : State) : Host.Outcome State Fault Refusal :=
  busWrite o (fun t => diag (.badOffset o) t) s

end Sys2Proof.Machine
end

