-- ==== Sys2Proof/Machine/SignalLines.lean ====
section
/-!
DEFINITION. The reset, enable and pin-input lines (43_signal_lines.md): one meaning per row. None is gated by the
enable flag or by the level of the reset line (R180).
-/
namespace Sys2Proof.Machine

/-- A line set to the level it already has (43_signal_lines.md R183, R185): no state change, no event. -/
def holdLine (s : State) : State := startOperation s

/-- The asserting edge of the reset line (43_signal_lines.md R181), in the order of its pseudocode. -/
def assertReset (s : State) : State :=
  resolvePins (applyDefaults (zeroRegisters (setResetAsserted true (startOperation s))))

/-- The releasing edge of the reset line (43_signal_lines.md R182). -/
def releaseReset (s : State) : State := resolvePins (setResetAsserted false (startOperation s))

/-- RESET_ASSERT (43_signal_lines.md R181); asserting again while asserted is suppressed (R183). -/
def execResetAssert (s : State) : Host.Outcome State Fault Refusal :=
  .next (if s.resetAsserted then holdLine s else assertReset s)

/-- RESET_DEASSERT (43_signal_lines.md R182); releasing a released line is no transition (R183). -/
def execResetDeassert (s : State) : Host.Outcome State Fault Refusal :=
  .next (if s.resetAsserted then releaseReset s else holdLine s)

/-- RESET_HOLD (43_signal_lines.md R183). -/
def execResetHold (_ : Bool) (s : State) : Host.Outcome State Fault Refusal := .next (holdLine s)

/-- ENABLE_CHANGE (43_signal_lines.md R184); a level that is no change is held (R185). -/
def execEnableChange (level : Bool) (s : State) : Host.Outcome State Fault Refusal :=
  .next (if level = s.peripheralEnabled then holdLine s
    else resolvePins (setEnabled level (startOperation s)))

/-- ENABLE_HOLD (43_signal_lines.md R185). -/
def execEnableHold (_ : Bool) (s : State) : Host.Outcome State Fault Refusal := .next (holdLine s)

/-- The common shape of a pin-input event (43_signal_lines.md R186): the index check, the drive of pin i, one pass. -/
def pinEvent (i : Nat) (drive : State → State) (s : State) : Host.Outcome State Fault Refusal :=
  if i < s.cfg.pinCount.val then .next (resolvePins (drive (startOperation s)))
  else .refused (.pinIndex (i : Int))

/-- PIN_BADINDEX (43_signal_lines.md R190): `raise Precondition(PIN_INDEX, i)`, the value is not examined. -/
def execPinBadindex (i : Int) (_ : BitVec 2) (_ : State) : Host.Outcome State Fault Refusal := .refused (.pinIndex i)

/-- PIN_FLOAT (43_signal_lines.md R187): external_level[i] keeps its value. -/
def execPinFloat (i : Nat) (s : State) : Host.Outcome State Fault Refusal := pinEvent i (setDriven i false) s

/-- PIN_LOW (43_signal_lines.md R188). -/
def execPinLow (i : Nat) (s : State) : Host.Outcome State Fault Refusal :=
  pinEvent i (fun t => setLevel i false (setDriven i true t)) s

/-- PIN_HIGH (43_signal_lines.md R189). -/
def execPinHigh (i : Nat) (s : State) : Host.Outcome State Fault Refusal :=
  pinEvent i (fun t => setLevel i true (setDriven i true t)) s

end Sys2Proof.Machine
end

