-- ==== Sys2Proof/Machine/Dispatch.lean ====
section
/-!
DEFINITION. The dispatch: one arm per row of opcode_table.json, each a direct call of that row's meaning.
-/
namespace Sys2Proof.Machine

/-- The effect of a decoded operation. -/
def exec (i : Instr) (s : State) : Host.Outcome State Fault Refusal :=
  match i with
  | .rdDisabled o => Sys2Proof.Machine.execRdDisabled o s
  | .rdModer => Sys2Proof.Machine.execRdModer s
  | .rdOtyper => Sys2Proof.Machine.execRdOtyper s
  | .rdOspeedr => Sys2Proof.Machine.execRdOspeedr s
  | .rdPupdr => Sys2Proof.Machine.execRdPupdr s
  | .rdIdr => Sys2Proof.Machine.execRdIdr s
  | .rdOdr => Sys2Proof.Machine.execRdOdr s
  | .rdBsrr => Sys2Proof.Machine.execRdBsrr s
  | .rdLckr => Sys2Proof.Machine.execRdLckr s
  | .rdAfrl => Sys2Proof.Machine.execRdAfrl s
  | .rdAfrh => Sys2Proof.Machine.execRdAfrh s
  | .rdBrr => Sys2Proof.Machine.execRdBrr s
  | .rdBrrF4 => Sys2Proof.Machine.execRdBrrF4 s
  | .rdBad o => Sys2Proof.Machine.execRdBad o s
  | .wrDisabled o w => Sys2Proof.Machine.execWrDisabled o w s
  | .wrModer w => Sys2Proof.Machine.execWrModer w s
  | .wrOtyper w => Sys2Proof.Machine.execWrOtyper w s
  | .wrOspeedr w => Sys2Proof.Machine.execWrOspeedr w s
  | .wrPupdr w => Sys2Proof.Machine.execWrPupdr w s
  | .wrIdr w => Sys2Proof.Machine.execWrIdr w s
  | .wrOdr w => Sys2Proof.Machine.execWrOdr w s
  | .wrBsrr w => Sys2Proof.Machine.execWrBsrr w s
  | .wrLckr w => Sys2Proof.Machine.execWrLckr w s
  | .wrAfrl w => Sys2Proof.Machine.execWrAfrl w s
  | .wrAfrh w => Sys2Proof.Machine.execWrAfrh w s
  | .wrBrr w => Sys2Proof.Machine.execWrBrr w s
  | .wrBrrF4 w => Sys2Proof.Machine.execWrBrrF4 w s
  | .wrBad o w => Sys2Proof.Machine.execWrBad o w s
  | .resetAssert => Sys2Proof.Machine.execResetAssert s
  | .resetDeassert => Sys2Proof.Machine.execResetDeassert s
  | .resetHold level => Sys2Proof.Machine.execResetHold level s
  | .enableChange level => Sys2Proof.Machine.execEnableChange level s
  | .enableHold level => Sys2Proof.Machine.execEnableHold level s
  | .pinBadindex k cls => Sys2Proof.Machine.execPinBadindex k cls s
  | .pinFloat k => Sys2Proof.Machine.execPinFloat k s
  | .pinLow k => Sys2Proof.Machine.execPinLow k s
  | .pinHigh k => Sys2Proof.Machine.execPinHigh k s
  | .resolve => Sys2Proof.Machine.execResolve s

end Sys2Proof.Machine
end

