-- ==== Sys2Proof/Machine/Step.lean ====
section
/-!
DEFINITION. One step of the port: it takes the oldest presented operation, decodes it (30_encoding.md R105) and runs
its row to completion (00_scope.md R9).
-/
namespace Sys2Proof.Machine

/-- One step. The oldest presented operation is taken out of the queue and run; with nothing presented nothing happens
(the port never acts on its own, 00_scope.md R9; log entry 2). -/
def step (s : State) : Host.Outcome State Fault Refusal :=
  match s.pending with
  | [] => .next (startOperation s)
  | op :: rest =>
    match fetch s op with
    | .error r => .refused r
    | .ok i => exec i (takeOperation rest s)

/-- The host's placement of a table word as the operation the next step takes (log entry 8). -/
def State.withFetchWord (s : State) (nbits w : Nat) : State := placeTableWord s nbits w

end Sys2Proof.Machine
end

