-- ==== Sys2Proof/Machine/Pseudo.lean ====
section
/-!
DEFINITION. What stands around the operations: the pseudo-operations (30_encoding.md R111) as lists of presented
operations, what the dispatcher presents for a bus address (20_memory.md R60), and the persisted-state record
(70_reset_and_hazards.md R252).
-/
namespace Sys2Proof.Machine

/-! ## Pseudo-operations -/

/-- SET_PIN(k): `WR(BSRR, 1 << k)`. -/
def setPinOps (k : Nat) : List Operation := [.busWrite 4 0x018 (1#32 <<< k)]

/-- CLR_PIN(k): `WR(BSRR, 1 << (16+k))`. -/
def clrPinOps (k : Nat) : List Operation := [.busWrite 4 0x018 (1#32 <<< (16 + k))]

/-- CLR_PIN(k) where BRR exists: `WR(BRR, 1 << k)`. -/
def clrPinBrrOps (k : Nat) : List Operation := [.busWrite 4 0x028 (1#32 <<< k)]

/-- The first operation of TOGGLE_PIN(k): `t = RD(ODR)`. -/
def togglePinRead : List Operation := [.busRead 4 0x014]

/-- The second operation of TOGGLE_PIN(k), from the value t that the first returned. -/
def togglePinWrite (k : Nat) (t : Word) : List Operation := if t.getLsbD k then clrPinOps k else setPinOps k

/-- PULSE_RESET: `RESET(1)`; `RESET(0)`. -/
def pulseResetOps : List Operation := [.lineReset 1, .lineReset 0]

/-- FLOAT(i): `PIN(i, -1)`. -/
def floatOps (i : Int) : List Operation := [.linePin i (-1)]

/-- DRIVE(i, b): `PIN(i, b)`. -/
def driveOps (i : Int) (b : Bool) : List Operation := [.linePin i (if b then 1 else 0)]

/-- The operation of READ_PIN(k): `RD(IDR)`. -/
def readPinOps : List Operation := [.busRead 4 0x010]

/-- The result of READ_PIN(k): `(RD(IDR) >> k) & 1`. -/
def readPinResult (k : Nat) (idr : Word) : Word := (idr >>> k) &&& 1

/-- NOP_PULSE: `WR(IDR, 0)`. -/
def nopPulseOps : List Operation := [.busWrite 4 0x010 0]

/-! ## The bus master's view -/

/-- `offset = address - BASE` (20_memory.md R60), what the dispatcher computes; an address below BASE gives a negative
offset, which lies outside the window. -/
def busOffset (c : Config) (address : Nat) : Int := (address : Int) - (c.base : Int)

/-- What the dispatcher presents when a master reads at a bus address (20_memory.md R60). -/
def readAtAddress (c : Config) (size address : Nat) : Operation := .busRead size (busOffset c address)

/-- What the dispatcher presents when a master writes at a bus address (20_memory.md R60). -/
def writeAtAddress (c : Config) (size address : Nat) (wdata : Word) : Operation :=
  .busWrite size (busOffset c address) wdata

/-! ## The persisted-state record -/

/-- The fields of 70_reset_and_hazards.md R252, without IDR and without a version (log entry 12). -/
structure PersistedRecord where
  moder          : Word
  otyper         : Word
  ospeedr        : Word
  pupdr          : Word
  odr            : Word
  lckr           : Word
  afrl           : Word
  afrh           : Word
  resetAsserted  : Bool
  enable         : Bool
  externalLevel  : PinVec
  externalDriven : PinVec
  deriving DecidableEq, Repr

/-- The record the block exposes (70_reset_and_hazards.md R252). No restore operation exists. -/
def persisted (s : State) : PersistedRecord :=
  { moder := s.moder, otyper := s.otyper, ospeedr := s.ospeedr, pupdr := s.pupdr, odr := s.odr, lckr := s.lckr
    afrl := s.afrl, afrh := s.afrh, resetAsserted := s.resetAsserted, enable := s.peripheralEnabled
    externalLevel := s.externalLevel, externalDriven := s.externalDriven }

end Sys2Proof.Machine
end

