-- ==== Sys2Proof/Safety.lean ====
section
/-!
DEFINITION. The terms of the claims: the invariants between operations (10_state.md R40, R43), what one resolution
pass does in closed form (42_resolve.md R160, R168), which operations the environment may present
(70_reset_and_hazards.md R250) and which run a pass (42_resolve.md R170).
-/
namespace Sys2Proof.Machine

/-! ## Invariants -/

/-- INV-IDR (10_state.md R40): every implemented pin's IDR bit is its level. -/
def LevelsHold (s : State) : Prop := ∀ i, i < s.cfg.pinCount.val → s.idr.getLsbD i = pinLevel s i

/-- INV-HIGH (10_state.md R43): nothing above the implemented pins. -/
def HighBitsClear (s : State) : Prop :=
  ∀ i, s.cfg.pinCount.val ≤ i →
    s.idr.getLsbD i = false ∧ s.externalLevel.getLsbD i = false ∧ s.externalDriven.getLsbD i = false

/-- The output lines between operations (10_state.md R37): the pulse line rests low, and the lines at and above
PIN_COUNT, which no implemented pin has (the model's, log entry 19), stay low. -/
def LinesAtRest (s : State) : Prop :=
  (∀ i, s.cfg.pinCount.val ≤ i → s.pinChangedLevel.getLsbD i = false) ∧ s.stateChangedLevel = false

/-- The invariant of a port between operations. -/
def PortInv (s : State) : Prop := LevelsHold s ∧ HighBitsClear s ∧ LinesAtRest s

/-! ## One pass in closed form -/

/-- The notification condition (42_resolve.md R166). -/
def isNotified (s : State) (i : Nat) : Bool :=
  decide (pinLevel s i ≠ s.idr.getLsbD i) && decide (modeOf s i = .input)

/-- The events of pin i in one pass, in order (42_resolve.md R167). -/
def pinEvents (s : State) (i : Nat) : List Event :=
  (if isShorted s i then [.diag (.short i)] else []) ++
  (if isNotified s i then [.pinChanged i (pinLevel s i)] else [])

/-- The pulse (00_scope.md R10). -/
def pulseEvents : List Event := [.stateChangedRise, .stateChangedFall]

/-- The events of one pass: the pins in ascending order, then the pulse (42_resolve.md R167). -/
def passEvents (s : State) : List Event := (List.range s.cfg.pinCount.val).flatMap (pinEvents s) ++ pulseEvents

/-- t is s after exactly one resolution pass (42_resolve.md R160, R168), and nothing else is changed: IDR and the
pin-changed lines bit by bit, the pulse line low again, the events appended, every other field that of s. -/
def OnePass (s t : State) : Prop :=
  (∀ i, t.idr.getLsbD i = if i < s.cfg.pinCount.val then pinLevel s i else s.idr.getLsbD i) ∧
  (∀ i, t.pinChangedLevel.getLsbD i =
    if i < s.cfg.pinCount.val ∧ isNotified s i = true then pinLevel s i else s.pinChangedLevel.getLsbD i) ∧
  t = { s with
    idr := t.idr, pinChangedLevel := t.pinChangedLevel, stateChangedLevel := false
    events := s.events ++ passEvents s }

/-! ## The environment -/

/-- The environment keeps its duties (70_reset_and_hazards.md R250): access size 4 inside the window, pin index below
PIN_COUNT. -/
def acceptable (c : Config) : Operation → Bool
  | .busRead size offset    => deliverable size offset
  | .busWrite size offset _ => deliverable size offset
  | .lineReset _            => true
  | .lineEnable _           => true
  | .linePin i _            => pinIndexOk c.pinCount.val i

/-- The call table of 42_resolve.md R170: whether an accepted operation runs a pass. -/
def runsPass (s : State) : Operation → Bool
  | .busRead _ _     => false
  | .busWrite _ _ _  => s.peripheralEnabled
  | .lineReset level => lineLevel level != s.resetAsserted
  | .lineEnable level => lineLevel level != s.peripheralEnabled
  | .linePin _ _     => true

/-- The rows of the opcode table that are bus reads of an enabled port (40_bus_read.md R121 to R133). -/
def isEnabledRead : Instr → Bool
  | .rdModer | .rdOtyper | .rdOspeedr | .rdPupdr | .rdIdr | .rdOdr | .rdBsrr | .rdLckr | .rdAfrl | .rdAfrh
  | .rdBrr | .rdBrrF4 | .rdBad _ => true
  | _ => false

/-- The rows of the opcode table that are bus writes to an enabled port (41_bus_write.md R142 to R154). -/
def isEnabledWrite : Instr → Bool
  | .wrModer _ | .wrOtyper _ | .wrOspeedr _ | .wrPupdr _ | .wrIdr _ | .wrOdr _ | .wrBsrr _ | .wrLckr _ | .wrAfrl _
  | .wrAfrh _ | .wrBrr _ | .wrBrrF4 _ | .wrBad _ _ => true
  | _ => false

/-- The state of 10_state.md R20 less the outputs and the queue: what a bus operation on a disabled port leaves. -/
def withoutIo (s : State) : State := { s with pending := [], rdata := none, events := [] }

/-- The state with the opaque registers blanked (10_state.md R23, R24, R29, R30, R31), to say that nothing else
depends on them. -/
def blankOpaque (s : State) : State := { s with otyper := 0, ospeedr := 0, lckr := 0, afrl := 0, afrh := 0 }

/-- A safe step: it gives a next state, and that state keeps the invariant. -/
def SafeStep (s : State) : Prop := ∃ t, step s = .next t ∧ PortInv t

end Sys2Proof.Machine
end

