-- ==== Sys2Proof/Certificates/Slice0/Obligations.lean ====
section
/-!
DEFINITION. The statements for the provers. A statement about an instruction names its whole next state, so that its
frame (what is left unchanged) is part of it; OnePass (Safety.lean) says what one resolution pass does, field by field.
There is no byte memory; the window is made of the registers (log entry 9).
-/

open Sys2Proof Sys2Proof.Machine

/-! ## Encoding -/

/-- Every row but RESOLVE has an encoded form, and it decodes to that row, with every operand, in every context in which
the row's condition holds. The selector packing is the spec's decision D25. -/
def Obligations.EncodedRowDecodesToItself : Prop :=
  ∀ i : Instr, WellFormed i = true →
    (encode i = none ↔ i = .resolve) ∧
    ∀ (c : DecodeContext) (e : Encoding), rowCondition c i = true → encode i = some e → decode c e = .ok i

/-- The other direction, for every operation that can be presented in any state: the row it is decoded to is well
formed, its condition holds in that state, and its encoded form is the operation's. -/
def Obligations.DecodedRowEncodesBack : Prop :=
  ∀ (s : State) (op : Operation) (i : Instr), fetch s op = .ok i →
    WellFormed i = true ∧ rowCondition (decodeContext s) i = true ∧
    ∃ e, encodingOf (decodeContext s) op = .ok e ∧ encode i = some e

/-- Words written out from the table and the formats of 30_encoding.md, one or more of each family. -/
def Obligations.WrittenOutWordsDecode : Prop :=
  let on (f : Family) : DecodeContext := { family := f, pinCount := 16, enabled := true, resetAsserted := false }
  let off : DecodeContext := { family := .f4, pinCount := 16, enabled := false, resetAsserted := false }
  decode (on .f4) (.bus 0b00000010100#11 none) = .ok .rdOdr ∧
  decode off (.bus 0b00000010100#11 none) = .ok (.rdDisabled 0x014#10) ∧
  decode (on .f4) (.bus 0b00000101000#11 none) = .ok .rdBrrF4 ∧
  decode (on .other) (.bus 0b00000101000#11 none) = .ok .rdBrr ∧
  decode (on .f4) (.bus 0b01111111100#11 none) = .ok (.rdBad 0x3FC#10) ∧
  decode (on .f4) (.bus 0b10000011000#11 (some 0x00010001#32)) = .ok (.wrBsrr 0x00010001#32) ∧
  decode (on .other) (.bus 0b10000101000#11 (some 0xFFFF0101#32)) = .ok (.wrBrr 0xFFFF0101#32) ∧
  decode (on .f4) (.bus 0b10000010110#11 (some 1#32)) = .ok (.wrBad 0x016#10 1#32) ∧
  decode (on .f4) (.lineReset 0b10#2) = .ok .resetAssert ∧
  decode (on .f4) (.lineEnable 0b01#2) = .ok (.enableChange false) ∧
  decode (on .f4) (.linePin 3 0b10#2) = .ok (.pinFloat 3) ∧
  decode (on .f4) (.linePin 16 0b01#2) = .ok (.pinBadindex 16 0b01#2)

/-- The decode of 30_encoding.md R105 for every presented operation: the selectors; the enable gate first; then the
offset, exactly; 0x028 by FAMILY; any other offset (misaligned ones included: decision D13) a bad one; the line
operations by the new and the tracked level; a pin-input operation by its index and then its sign class. The selector
packing is decision D25, the integer levels D27. -/
def Obligations.PresentedOperationSelectsItsRow : Prop :=
  ∀ s : State,
    (∀ (o : Offset) (w : Word),
      encodingOf (decodeContext s) (.busRead 4 o.toNat) = .ok (.bus (0#1 ++ o) none) ∧
      encodingOf (decodeContext s) (.busWrite 4 o.toNat w) = .ok (.bus (1#1 ++ o) (some w))) ∧
    (s.peripheralEnabled = false → ∀ (o : Offset) (w : Word),
      fetch s (.busRead 4 o.toNat) = .ok (.rdDisabled o) ∧
      fetch s (.busWrite 4 o.toNat w) = .ok (.wrDisabled o w)) ∧
    (s.peripheralEnabled = true →
      (∀ w : Word,
        (fetch s (.busRead 4 0x000) = .ok .rdModer ∧ fetch s (.busWrite 4 0x000 w) = .ok (.wrModer w)) ∧
        (fetch s (.busRead 4 0x004) = .ok .rdOtyper ∧ fetch s (.busWrite 4 0x004 w) = .ok (.wrOtyper w)) ∧
        (fetch s (.busRead 4 0x008) = .ok .rdOspeedr ∧ fetch s (.busWrite 4 0x008 w) = .ok (.wrOspeedr w)) ∧
        (fetch s (.busRead 4 0x00C) = .ok .rdPupdr ∧ fetch s (.busWrite 4 0x00C w) = .ok (.wrPupdr w)) ∧
        (fetch s (.busRead 4 0x010) = .ok .rdIdr ∧ fetch s (.busWrite 4 0x010 w) = .ok (.wrIdr w)) ∧
        (fetch s (.busRead 4 0x014) = .ok .rdOdr ∧ fetch s (.busWrite 4 0x014 w) = .ok (.wrOdr w)) ∧
        (fetch s (.busRead 4 0x018) = .ok .rdBsrr ∧ fetch s (.busWrite 4 0x018 w) = .ok (.wrBsrr w)) ∧
        (fetch s (.busRead 4 0x01C) = .ok .rdLckr ∧ fetch s (.busWrite 4 0x01C w) = .ok (.wrLckr w)) ∧
        (fetch s (.busRead 4 0x020) = .ok .rdAfrl ∧ fetch s (.busWrite 4 0x020 w) = .ok (.wrAfrl w)) ∧
        (fetch s (.busRead 4 0x024) = .ok .rdAfrh ∧ fetch s (.busWrite 4 0x024 w) = .ok (.wrAfrh w)) ∧
        (s.cfg.family ≠ .f4 →
          fetch s (.busRead 4 0x028) = .ok .rdBrr ∧ fetch s (.busWrite 4 0x028 w) = .ok (.wrBrr w)) ∧
        (s.cfg.family = .f4 →
          fetch s (.busRead 4 0x028) = .ok .rdBrrF4 ∧ fetch s (.busWrite 4 0x028 w) = .ok (.wrBrrF4 w))) ∧
      (∀ (o : Offset) (w : Word), (0x028 < o.toNat ∨ o.toNat % 4 ≠ 0) →
        fetch s (.busRead 4 o.toNat) = .ok (.rdBad o) ∧ fetch s (.busWrite 4 o.toNat w) = .ok (.wrBad o w))) ∧
    (∀ v : Int,
      (v ≠ 0 → s.resetAsserted = false → fetch s (.lineReset v) = .ok .resetAssert) ∧
      (v = 0 → s.resetAsserted = true → fetch s (.lineReset v) = .ok .resetDeassert) ∧
      (decide (v ≠ 0) = s.resetAsserted → fetch s (.lineReset v) = .ok (.resetHold s.resetAsserted)) ∧
      (decide (v ≠ 0) ≠ s.peripheralEnabled →
        fetch s (.lineEnable v) = .ok (.enableChange (!s.peripheralEnabled))) ∧
      (decide (v ≠ 0) = s.peripheralEnabled →
        fetch s (.lineEnable v) = .ok (.enableHold s.peripheralEnabled))) ∧
    (∀ i v : Int, (i < 0 ∨ (s.cfg.pinCount.val : Int) ≤ i) →
      ∃ cls, fetch s (.linePin i v) = .ok (.pinBadindex i cls)) ∧
    (∀ (k : Nat) (v : Int), k < s.cfg.pinCount.val →
      (v < 0 → fetch s (.linePin k v) = .ok (.pinFloat k)) ∧
      (v = 0 → fetch s (.linePin k v) = .ok (.pinLow k)) ∧
      (0 < v → fetch s (.linePin k v) = .ok (.pinHigh k)))

/-- Field layouts (decision D3): the insertion formula of 30_encoding.md R95 writes exactly the named pin's field; the
4-bit selectors of R97 lie in AFRL for pins 0 to 7 and in AFRH for pins 8 to 15; one-bit fields lie at bit i (R96). -/
def Obligations.FieldLayoutsAreAsTabled : Prop :=
  (∀ (v : Word) (i j : Nat) (f : BitVec 2), i < 16 → j < 16 →
    field2 (insertField2 v i f) j = if i = j then f else field2 v j) ∧
  (∀ (s : State) (i k : Nat), i < 16 → k < 4 →
    (alternateFunctionOf s i).getLsbD k =
      if i < 8 then s.afrl.getLsbD (4 * i + k) else s.afrh.getLsbD (4 * (i - 8) + k)) ∧
  (∀ (s : State) (i k : Nat), k < 2 → (outputSpeedOf s i).getLsbD k = s.ospeedr.getLsbD (2 * i + k)) ∧
  (∀ (s : State) (i : Nat), outputTypeOf s i = s.otyper.getLsbD i ∧ lockOf s i = s.lckr.getLsbD i)

/-! ## A step -/

/-- A step takes the oldest presented operation out of the queue and runs the row it is decoded to (the queue is the
model's, log entry 1). -/
def Obligations.StepRunsTheDecodedInstruction : Prop :=
  ∀ (s : State) (op : Operation) (rest : List Operation) (e : Encoding) (i : Instr),
    s.pending = op :: rest → encodingOf (decodeContext s) op = .ok e → decode (decodeContext s) e = .ok i →
    step s = exec i { s with pending := rest }

/-- With nothing presented the port does nothing (the model's choice of outcome, log entry 2): the outputs are empty,
every other field is kept. -/
def Obligations.StepWithNothingPresentedKeepsTheState : Prop :=
  ∀ s : State, s.pending = [] → step s = .next { s with rdata := none, events := [] }

/-- A bus access that is not 4 bytes wide or lies outside the window is refused by the name ACCESS, enabled or not
(decision D13). -/
def Obligations.UndeliverableAccessIsRefused : Prop :=
  ∀ (s : State) (rest : List Operation) (size : Nat) (offset : Int) (w : Word),
    (size ≠ 4 ∨ offset < 0 ∨ 0x400 ≤ offset) →
    step { s with pending := .busRead size offset :: rest } = .refused (.access size offset) ∧
    step { s with pending := .busWrite size offset w :: rest } = .refused (.access size offset)

/-- Where the environment keeps its duties a step completes, and it is refused exactly where one is broken, by the name
of the duty: every operation terminates with a next state and leaves the queue. -/
def Obligations.StepCompletesExactlyOnAcceptableOperations : Prop :=
  ∀ (s : State) (op : Operation) (rest : List Operation), s.pending = op :: rest →
    (acceptable s.cfg op = true → ∃ t, step s = .next t ∧ t.pending = rest) ∧
    (acceptable s.cfg op = false →
      (∃ size offset, step s = .refused (.access size offset)) ∨ (∃ i, step s = .refused (.pinIndex i)))

/-! ## Bus reads -/

/-- The nine stored registers, read with the port enabled: selector, value, no diagnostic, nothing written. -/
def Obligations.ReadsReturnTheStoredRegister : Prop :=
  ∀ s : State, s.peripheralEnabled = true →
    let c := decodeContext s
    let out (v : Word) : State := { s with rdata := some v, events := [] }
    (decode c (.bus 0x000#11 none) = .ok .rdModer ∧ exec .rdModer s = .next (out s.moder)) ∧
    (decode c (.bus 0x004#11 none) = .ok .rdOtyper ∧ exec .rdOtyper s = .next (out s.otyper)) ∧
    (decode c (.bus 0x008#11 none) = .ok .rdOspeedr ∧ exec .rdOspeedr s = .next (out s.ospeedr)) ∧
    (decode c (.bus 0x00C#11 none) = .ok .rdPupdr ∧ exec .rdPupdr s = .next (out s.pupdr)) ∧
    (decode c (.bus 0x010#11 none) = .ok .rdIdr ∧ exec .rdIdr s = .next (out s.idr)) ∧
    (decode c (.bus 0x014#11 none) = .ok .rdOdr ∧ exec .rdOdr s = .next (out s.odr)) ∧
    (decode c (.bus 0x01C#11 none) = .ok .rdLckr ∧ exec .rdLckr s = .next (out s.lckr)) ∧
    (decode c (.bus 0x020#11 none) = .ok .rdAfrl ∧ exec .rdAfrl s = .next (out s.afrl)) ∧
    (decode c (.bus 0x024#11 none) = .ok .rdAfrh ∧ exec .rdAfrh s = .next (out s.afrh))

/-- The write-only registers read 0 without a diagnostic, BRR where it exists. -/
def Obligations.ReadsOfWriteOnlyRegistersReturnZero : Prop :=
  ∀ s : State, s.peripheralEnabled = true →
    (decode (decodeContext s) (.bus 0x018#11 none) = .ok .rdBsrr ∧
      exec .rdBsrr s = .next { s with rdata := some 0, events := [] }) ∧
    (s.cfg.family ≠ .f4 →
      decode (decodeContext s) (.bus 0x028#11 none) = .ok .rdBrr ∧
      exec .rdBrr s = .next { s with rdata := some 0, events := [] })

/-- 0x028 on F4: the bad-offset path of a read, and the rejected write (no register change, ODR included), which is
still followed by the pass. -/
def Obligations.BrrIsAbsentOnF4 : Prop :=
  ∀ (s : State) (w : Word), s.peripheralEnabled = true → s.cfg.family = .f4 →
    decode (decodeContext s) (.bus 0x028#11 none) = .ok .rdBrrF4 ∧
    exec .rdBrrF4 s = .next { s with rdata := some 0, events := [.diag (.badOffset 0x028#10)] } ∧
    decode (decodeContext s) (.bus 0x428#11 (some w)) = .ok (.wrBrrF4 w) ∧
    ∃ t, exec (.wrBrrF4 w) s = .next t ∧
      OnePass { s with rdata := none, events := [.diag (.badOffset 0x028#10)] } t

/-- An offset at which no register lies (misaligned offsets included: decision D13): the diagnostic; a read returns 0,
a write changes no register and is followed by the pass. -/
def Obligations.UnmappedOffsetsReadZeroAndIgnoreWrites : Prop :=
  ∀ (s : State) (o : Offset) (w : Word), s.peripheralEnabled = true → (0x028 < o.toNat ∨ o.toNat % 4 ≠ 0) →
    decode (decodeContext s) (.bus (0#1 ++ o) none) = .ok (.rdBad o) ∧
    exec (.rdBad o) s = .next { s with rdata := some 0, events := [.diag (.badOffset o)] } ∧
    decode (decodeContext s) (.bus (1#1 ++ o) (some w)) = .ok (.wrBad o w) ∧
    ∃ t, exec (.wrBad o w) s = .next t ∧ OnePass { s with rdata := none, events := [.diag (.badOffset o)] } t

/-- A read while disabled: before any offset decode, 0 and exactly one diagnostic, nothing written. -/
def Obligations.DisabledReadReturnsZero : Prop :=
  ∀ (s : State) (o : Offset), s.peripheralEnabled = false →
    decode (decodeContext s) (.bus (0#1 ++ o) none) = .ok (.rdDisabled o) ∧
    exec (.rdDisabled o) s = .next { s with rdata := some 0, events := [.diag (.disabled o)] }

/-- A write while disabled: before any offset decode, lost, exactly one diagnostic, no pass. -/
def Obligations.DisabledWriteIsLost : Prop :=
  ∀ (s : State) (o : Offset) (w : Word), s.peripheralEnabled = false →
    decode (decodeContext s) (.bus (1#1 ++ o) (some w)) = .ok (.wrDisabled o w) ∧
    exec (.wrDisabled o w) s = .next { s with rdata := none, events := [.diag (.disabled o)] }

/-- The rows of an enabled port, met in a disabled state, do what the gate says, with the offset of their own selector:
no form of a bus operation escapes the gate (how such a row is reached at all is the model's, log entry 10). -/
def Obligations.NoBusRowEscapesTheGate : Prop :=
  ∀ (s : State) (i : Instr) (sel : BitVec 11), s.peripheralEnabled = false →
    (isEnabledRead i = true → encode i = some (.bus sel none) →
      exec i s = .next { s with rdata := some 0, events := [.diag (.disabled (sel.setWidth 10))] }) ∧
    (∀ w, isEnabledWrite i = true → encode i = some (.bus sel (some w)) →
      exec i s = .next { s with rdata := none, events := [.diag (.disabled (sel.setWidth 10))] })

/-- Every read of an enabled port returns a value, writes no state, emits no notification and no pulse and at most one
diagnostic (decision D4). -/
def Obligations.ReadsHaveNoSideEffect : Prop :=
  ∀ (s : State) (i : Instr), s.peripheralEnabled = true → isEnabledRead i = true →
    ∃ v es, exec i s = .next { s with rdata := some v, events := es } ∧
      (es = [] ∨ ∃ o, es = [.diag (.badOffset o)])

/-! ## Bus writes -/

/-- MODER, PUPDR and ODR: the value verbatim, all 32 bits, then the pass over the new register; nothing else. -/
def Obligations.WritesOfResolvedRegistersStoreVerbatim : Prop :=
  ∀ (s : State) (w : Word), s.peripheralEnabled = true →
    let c := decodeContext s
    (decode c (.bus 0x400#11 (some w)) = .ok (.wrModer w) ∧
      ∃ t, exec (.wrModer w) s = .next t ∧ OnePass { s with moder := w, rdata := none, events := [] } t) ∧
    (decode c (.bus 0x40C#11 (some w)) = .ok (.wrPupdr w) ∧
      ∃ t, exec (.wrPupdr w) s = .next t ∧ OnePass { s with pupdr := w, rdata := none, events := [] } t) ∧
    (decode c (.bus 0x414#11 (some w)) = .ok (.wrOdr w) ∧
      ∃ t, exec (.wrOdr w) s = .next t ∧ OnePass { s with odr := w, rdata := none, events := [] } t)

/-- OTYPER, OSPEEDR, LCKR, AFRL and AFRH: the value verbatim, then the pass; where the levels hold, the pass changes no
level and emits no notification. -/
def Obligations.WritesOfOpaqueRegistersChangeNoLevel : Prop :=
  ∀ (s : State) (w : Word), s.peripheralEnabled = true →
    let c := decodeContext s
    let same (t : State) : Prop := LevelsHold s →
      t.idr = s.idr ∧ t.pinChangedLevel = s.pinChangedLevel ∧ ∀ i b, Event.pinChanged i b ∉ t.events
    (decode c (.bus 0x404#11 (some w)) = .ok (.wrOtyper w) ∧
      ∃ t, exec (.wrOtyper w) s = .next t ∧ OnePass { s with otyper := w, rdata := none, events := [] } t ∧ same t) ∧
    (decode c (.bus 0x408#11 (some w)) = .ok (.wrOspeedr w) ∧
      ∃ t, exec (.wrOspeedr w) s = .next t ∧ OnePass { s with ospeedr := w, rdata := none, events := [] } t ∧ same t) ∧
    (decode c (.bus 0x41C#11 (some w)) = .ok (.wrLckr w) ∧
      ∃ t, exec (.wrLckr w) s = .next t ∧ OnePass { s with lckr := w, rdata := none, events := [] } t ∧ same t) ∧
    (decode c (.bus 0x420#11 (some w)) = .ok (.wrAfrl w) ∧
      ∃ t, exec (.wrAfrl w) s = .next t ∧ OnePass { s with afrl := w, rdata := none, events := [] } t ∧ same t) ∧
    (decode c (.bus 0x424#11 (some w)) = .ok (.wrAfrh w) ∧
      ∃ t, exec (.wrAfrh w) s = .next t ∧ OnePass { s with afrh := w, rdata := none, events := [] } t ∧ same t)

/-- A write to IDR is discarded with the READ_ONLY diagnostic (decision D12), which precedes the pass; where the levels
hold, IDR keeps its value. -/
def Obligations.WriteToIdrIsIgnored : Prop :=
  ∀ (s : State) (w : Word), s.peripheralEnabled = true →
    decode (decodeContext s) (.bus 0x410#11 (some w)) = .ok (.wrIdr w) ∧
    ∃ t, exec (.wrIdr w) s = .next t ∧
      OnePass { s with rdata := none, events := [.diag (.readOnly 0x010#10)] } t ∧ (LevelsHold s → t.idr = s.idr)

/-- BSRR: bit k of ODR is set, else reset, else unchanged; ODR[31:16] is kept; then the pass. -/
def Obligations.BsrrSetsThenResetsOdrBits : Prop :=
  ∀ (s : State) (w : Word), s.peripheralEnabled = true →
    decode (decodeContext s) (.bus 0x418#11 (some w)) = .ok (.wrBsrr w) ∧
    ∃ (v : Word) (t : State),
      (∀ k, v.getLsbD k =
        if k < 16 ∧ w.getLsbD k = true then true
        else if k < 16 ∧ w.getLsbD (16 + k) = true then false
        else s.odr.getLsbD k) ∧
      exec (.wrBsrr w) s = .next t ∧ OnePass { s with odr := v, rdata := none, events := [] } t

/-- BRR, where it exists: the low half of the value clears ODR bits, the rest is ignored; then the pass. -/
def Obligations.BrrClearsOdrBits : Prop :=
  ∀ (s : State) (w : Word), s.peripheralEnabled = true → s.cfg.family ≠ .f4 →
    decode (decodeContext s) (.bus 0x428#11 (some w)) = .ok (.wrBrr w) ∧
    ∃ (v : Word) (t : State),
      (∀ k, v.getLsbD k = if k < 16 ∧ w.getLsbD k = true then false else s.odr.getLsbD k) ∧
      exec (.wrBrr w) s = .next t ∧ OnePass { s with odr := v, rdata := none, events := [] } t

/-- Every write of an enabled port ends with one pass and so with exactly one pulse, at the end of its events. -/
def Obligations.EveryEnabledWritePulsesOnce : Prop :=
  ∀ (s : State) (i : Instr), s.peripheralEnabled = true → isEnabledWrite i = true →
    ∃ t es, exec i s = .next t ∧ t.events = es ++ [.stateChangedRise, .stateChangedFall] ∧
      Event.stateChangedRise ∉ es ∧ Event.stateChangedFall ∉ es ∧ t.stateChangedLevel = false ∧
      LevelsHold t

/-! ## The resolution pass -/

/-- RESOLVE: one pass and nothing else; no operation of the environment selects it. -/
def Obligations.ResolveIsOnePass : Prop :=
  (∀ s : State, ∃ t, exec .resolve s = .next t ∧ OnePass { s with rdata := none, events := [] } t) ∧
  (∀ (s : State) (op : Operation), fetch s op ≠ .ok .resolve)

/-- The three-way multiplexer with its strict priority, seen in IDR after a pass; in the third branch a floating pin is
low. -/
def Obligations.PassChoosesExternalThenOutputThenPull : Prop :=
  ∀ s : State, ∃ t, exec .resolve s = .next t ∧ ∀ i, i < s.cfg.pinCount.val →
    (s.externalDriven.getLsbD i = true → t.idr.getLsbD i = s.externalLevel.getLsbD i) ∧
    (s.externalDriven.getLsbD i = false → modeOf s i = .output → t.idr.getLsbD i = s.odr.getLsbD i) ∧
    (s.externalDriven.getLsbD i = false → modeOf s i ≠ .output →
      (t.idr.getLsbD i = true ↔ pullOf s i = .up))

/-- The codes of the mode and pull fields in the register bits (decisions D1, D2, D3): OUTPUT is 0b01 and INPUT 0b00
in MODER[2i+1:2i], UP is 0b01 in PUPDR[2i+1:2i], and every other pull code resolves low. -/
def Obligations.ModeAndPullCodes : Prop :=
  ∀ (s : State) (i : Nat), i < 16 →
    (s.moder.getLsbD (2 * i + 1) = false → s.moder.getLsbD (2 * i) = false → modeOf s i = .input) ∧
    (s.moder.getLsbD (2 * i + 1) = false → s.moder.getLsbD (2 * i) = true → modeOf s i = .output) ∧
    (s.moder.getLsbD (2 * i + 1) = true → s.moder.getLsbD (2 * i) = false → modeOf s i = .alternateFunction) ∧
    (s.moder.getLsbD (2 * i + 1) = true → s.moder.getLsbD (2 * i) = true → modeOf s i = .analog) ∧
    (s.pupdr.getLsbD (2 * i + 1) = false → s.pupdr.getLsbD (2 * i) = false → pullOf s i = .none) ∧
    (s.pupdr.getLsbD (2 * i + 1) = false → s.pupdr.getLsbD (2 * i) = true → pullOf s i = .up) ∧
    (s.pupdr.getLsbD (2 * i + 1) = true → s.pupdr.getLsbD (2 * i) = false → pullOf s i = .down) ∧
    (s.pupdr.getLsbD (2 * i + 1) = true → s.pupdr.getLsbD (2 * i) = true → pullOf s i = .unnamed) ∧
    (s.externalDriven.getLsbD i = false → modeOf s i ≠ .output → pullOf s i = .unnamed → pinLevel s i = false)

/-- The conflict detector: in every pass, once per pin that is in OUTPUT mode and driven from outside, whatever the
levels; no other pin; and it alters nothing of what is resolved (the whole state after the pass is that of OnePass). -/
def Obligations.ShortIsReportedOncePerConflictingPin : Prop :=
  ∀ s : State, ∃ t, exec .resolve s = .next t ∧ OnePass { s with rdata := none, events := [] } t ∧ ∀ i,
    t.events.count (.diag (.short i)) =
      (if i < s.cfg.pinCount.val ∧ modeOf s i = .output ∧ s.externalDriven.getLsbD i = true then 1 else 0) ∧
    (i < s.cfg.pinCount.val → modeOf s i = .output → s.externalDriven.getLsbD i = true →
      t.idr.getLsbD i = s.externalLevel.getLsbD i)

/-- The edge detector: a pin is notified, once and with its new level, exactly if the pass changes its IDR bit and it is
in INPUT mode; its line then holds that level, and no other line moves. -/
def Obligations.NotificationNeedsAChangeInInputMode : Prop :=
  ∀ s : State, ∃ t, exec .resolve s = .next t ∧ ∀ i,
    (∀ b, t.events.count (.pinChanged i b) =
      if i < s.cfg.pinCount.val ∧ modeOf s i = .input ∧ t.idr.getLsbD i ≠ s.idr.getLsbD i ∧ t.idr.getLsbD i = b
      then 1 else 0) ∧
    (t.pinChangedLevel.getLsbD i =
      if i < s.cfg.pinCount.val ∧ modeOf s i = .input ∧ t.idr.getLsbD i ≠ s.idr.getLsbD i
      then t.idr.getLsbD i else s.pinChangedLevel.getLsbD i)

/-- Calling the pass twice: the same IDR, the pulse both times, no notification the second time, every standing short
again. -/
def Obligations.ResolutionIsIdempotent : Prop :=
  ∀ s : State, ∃ t u, exec .resolve s = .next t ∧ exec .resolve t = .next u ∧
    u.idr = t.idr ∧ u.pinChangedLevel = t.pinChangedLevel ∧
    (∃ es, t.events = es ++ [.stateChangedRise, .stateChangedFall]) ∧
    (∃ es, u.events = es ++ [.stateChangedRise, .stateChangedFall]) ∧
    (∀ i b, Event.pinChanged i b ∉ u.events) ∧
    (∀ i, Event.diag (.short i) ∈ u.events ↔ Event.diag (.short i) ∈ t.events)

/-- Pins are independent lanes: two states that agree on the six inputs of pin i give it the same level, the same
notification and the same diagnostic, whatever every other pin and every opaque register holds. -/
def Obligations.PinsAreIndependentLanes : Prop :=
  ∀ (s u : State) (i : Nat), i < s.cfg.pinCount.val → i < u.cfg.pinCount.val →
    modeOf s i = modeOf u i → pullOf s i = pullOf u i → s.odr.getLsbD i = u.odr.getLsbD i →
    s.externalLevel.getLsbD i = u.externalLevel.getLsbD i →
    s.externalDriven.getLsbD i = u.externalDriven.getLsbD i → s.idr.getLsbD i = u.idr.getLsbD i →
    ∃ t v, exec .resolve s = .next t ∧ exec .resolve u = .next v ∧
      t.idr.getLsbD i = v.idr.getLsbD i ∧
      (∀ b, Event.pinChanged i b ∈ t.events ↔ Event.pinChanged i b ∈ v.events) ∧
      (Event.diag (.short i) ∈ t.events ↔ Event.diag (.short i) ∈ v.events)

/-! ## The signal lines -/

/-- The asserting edge of the reset line: every stored register at its default, IDR zeroed before the pass (decision
D6), the defaults of FAMILY and PORT (decisions D15, D16), external drive, the enable flag and the configuration kept;
the pass reports no short. -/
def Obligations.ResetAssertLoadsTheDefaults : Prop :=
  ∀ s : State, s.resetAsserted = false →
    decode (decodeContext s) (.lineReset 0b10#2) = .ok .resetAssert ∧
    ∀ m p sp : Word,
      (s.cfg.family = .f4 → s.cfg.port = 0 → m = 0xA8000000 ∧ p = 0x64000000 ∧ sp = 0) →
      (s.cfg.family = .f4 → s.cfg.port = 1 → m = 0x00000280 ∧ p = 0x00000100 ∧ sp = 0x000000C0) →
      (s.cfg.family = .f4 → 2 ≤ s.cfg.port → m = 0 ∧ p = 0 ∧ sp = 0) →
      (s.cfg.family = .other → m = 0 ∧ p = 0 ∧ sp = 0) →
      ∃ t, exec .resetAssert s = .next t ∧
        OnePass { s with
          resetAsserted := true
          moder := m, otyper := 0, ospeedr := sp, pupdr := p, idr := 0, odr := 0, lckr := 0, afrl := 0, afrh := 0
          rdata := none, events := [] } t ∧
        ∀ i, Event.diag (.short i) ∉ t.events

/-- The releasing edge: reset_asserted and the pass, no register change (under the invariant the pass finds every level
as it was). -/
def Obligations.ResetDeassertChangesNoRegister : Prop :=
  ∀ s : State, s.resetAsserted = true →
    decode (decodeContext s) (.lineReset 0b01#2) = .ok .resetDeassert ∧
    ∃ t, exec .resetDeassert s = .next t ∧
      OnePass { s with resetAsserted := false, rdata := none, events := [] } t ∧
      (PortInv s → t = { s with resetAsserted := false, rdata := none, events := t.events } ∧
        ∀ i b, Event.pinChanged i b ∉ t.events)

/-- A line set to the level it already has: no state change, no event, no pass (decision D10); a second assertion of an
asserted reset line is suppressed. -/
def Obligations.HeldLinesDoNothing : Prop :=
  ∀ s : State,
    exec (.resetHold s.resetAsserted) s = .next { s with rdata := none, events := [] } ∧
    exec (.enableHold s.peripheralEnabled) s = .next { s with rdata := none, events := [] } ∧
    (∀ (v : Int) (rest : List Operation), decide (v ≠ 0) = s.resetAsserted → s.pending = .lineReset v :: rest →
      step s = .next { s with pending := rest, rdata := none, events := [] }) ∧
    (∀ (v : Int) (rest : List Operation), decide (v ≠ 0) = s.peripheralEnabled → s.pending = .lineEnable v :: rest →
      step s = .next { s with pending := rest, rdata := none, events := [] })

/-- A change of the enable line, in either direction: the flag and the pass; under the invariant the pass changes
nothing and no register is cleared or restored. -/
def Obligations.EnableChangeKeepsEveryRegister : Prop :=
  ∀ (s : State) (level : Bool), level ≠ s.peripheralEnabled →
    decode (decodeContext s) (.lineEnable (BitVec.ofBool level ++ BitVec.ofBool s.peripheralEnabled)) =
      .ok (.enableChange level) ∧
    ∃ t, exec (.enableChange level) s = .next t ∧
      OnePass { s with peripheralEnabled := level, rdata := none, events := [] } t ∧
      (PortInv s → t = { s with peripheralEnabled := level, rdata := none, events := t.events } ∧
        ∀ i b, Event.pinChanged i b ∉ t.events)

/-- PIN_LOW and PIN_HIGH: pin i is driven at the level, then the pass; its IDR bit becomes that level in every mode, and
the short is reported if it is in OUTPUT mode. -/
def Obligations.DrivingAPinForcesItsLevel : Prop :=
  ∀ (s : State) (i : Nat) (level : Bool), i < s.cfg.pinCount.val →
    decode (decodeContext s) (.linePin (i : Int) (if level then 0b01#2 else 0b00#2)) =
      .ok (if level then .pinHigh i else .pinLow i) ∧
    ∃ (xd xl : PinVec) (t : State),
      (∀ j, xd.getLsbD j = if j = i then true else s.externalDriven.getLsbD j) ∧
      (∀ j, xl.getLsbD j = if j = i then level else s.externalLevel.getLsbD j) ∧
      exec (if level then .pinHigh i else .pinLow i) s = .next t ∧
      OnePass { s with externalDriven := xd, externalLevel := xl, rdata := none, events := [] } t ∧
      t.idr.getLsbD i = level ∧ (modeOf s i = .output → Event.diag (.short i) ∈ t.events)

/-- PIN_FLOAT: pin i is no longer driven, its external level bit is kept (decision D20), then the pass. -/
def Obligations.FloatingAPinDisconnectsIt : Prop :=
  ∀ (s : State) (i : Nat), i < s.cfg.pinCount.val →
    decode (decodeContext s) (.linePin (i : Int) 0b10#2) = .ok (.pinFloat i) ∧
    ∃ (xd : PinVec) (t : State),
      (∀ j, xd.getLsbD j = if j = i then false else s.externalDriven.getLsbD j) ∧
      exec (.pinFloat i) s = .next t ∧
      OnePass { s with externalDriven := xd, rdata := none, events := [] } t

/-- Only pin i's inputs change in a pin-input event: where the levels hold, no other pin's IDR bit moves. -/
def Obligations.PinEventMovesOnlyItsPin : Prop :=
  ∀ (s : State) (i j : Nat), i < s.cfg.pinCount.val → j ≠ i → LevelsHold s →
    ∀ op ∈ [Instr.pinFloat i, Instr.pinLow i, Instr.pinHigh i],
      ∃ t, exec op s = .next t ∧ t.idr.getLsbD j = s.idr.getLsbD j ∧
        t.pinChangedLevel.getLsbD j = s.pinChangedLevel.getLsbD j ∧ ∀ b, Event.pinChanged j b ∉ t.events

/-- A pin index outside the port is refused by the name PIN_INDEX, whatever the value: the bad-index row and the step
(decision D28; that the index is an integer, so that it can be negative, is the model's, log entry 15). That the rows
PIN_FLOAT, PIN_LOW and PIN_HIGH, run with an index at or above PIN_COUNT, are refused in the same way (the second clause)
is the model's choice for rows outside their condition, log entries 10 and 15: the decoder selects none of them there. -/
def Obligations.BadPinIndexIsRefused : Prop :=
  (∀ (s : State) (i : Int) (cls : BitVec 2), (i < 0 ∨ (s.cfg.pinCount.val : Int) ≤ i) →
    exec (.pinBadindex i cls) s = .refused (.pinIndex i)) ∧
  (∀ (s : State) (k : Nat), s.cfg.pinCount.val ≤ k →
    exec (.pinFloat k) s = .refused (.pinIndex k) ∧ exec (.pinLow k) s = .refused (.pinIndex k) ∧
    exec (.pinHigh k) s = .refused (.pinIndex k)) ∧
  (∀ (s : State) (i v : Int) (rest : List Operation), s.pending = .linePin i v :: rest →
    (i < 0 ∨ (s.cfg.pinCount.val : Int) ≤ i) → step s = .refused (.pinIndex i))

/-! ## Construction and reset -/

/-- The construction state of every configuration (decisions D7, D8) meets the invariant, and so does State.reset (which
state the model calls reset: log entry 7); the enable flag of the construction state is INIT_ENABLED. That the
pin-changed lines at and above PIN_COUNT are part of the invariant is the model's, log entry 19. -/
def Obligations.ConstructionAndResetMeetTheInvariant : Prop :=
  PortInv State.reset ∧ ∀ c : Config, PortInv (State.construct c) ∧ (State.construct c).peripheralEnabled = c.initEnabled

/-- What one assertion of the reset line makes of the construction state, for every configuration of the table of
70_reset_and_hazards.md section 2: registers, IDR by PIN_COUNT, and the pulse as the only events. -/
def Obligations.ResetOfTheConstructionState : Prop :=
  ∀ c : Config, ∃ t, step { State.construct c with pending := [.lineReset 1] } = .next t ∧
    t.events = [.stateChangedRise, .stateChangedFall] ∧ t.resetAsserted = true ∧
    t.peripheralEnabled = c.initEnabled ∧ t.cfg = c ∧
    t.otyper = 0 ∧ t.odr = 0 ∧ t.lckr = 0 ∧ t.afrl = 0 ∧ t.afrh = 0 ∧
    (c.family = .f4 → c.port = 0 →
      t.moder = 0xA8000000 ∧ t.pupdr = 0x64000000 ∧ t.ospeedr = 0 ∧
      (c.pinCount.val = 16 → t.idr = 0x0000A000) ∧
      (c.pinCount.val = 14 ∨ c.pinCount.val = 15 → t.idr = 0x00002000) ∧
      (c.pinCount.val ≤ 13 → t.idr = 0)) ∧
    (c.family = .f4 → c.port = 1 →
      t.moder = 0x00000280 ∧ t.pupdr = 0x00000100 ∧ t.ospeedr = 0x000000C0 ∧
      (5 ≤ c.pinCount.val → t.idr = 0x00000010) ∧ (c.pinCount.val ≤ 4 → t.idr = 0)) ∧
    (c.family = .f4 → 2 ≤ c.port → t.moder = 0 ∧ t.pupdr = 0 ∧ t.ospeedr = 0 ∧ t.idr = 0) ∧
    (c.family = .other → t.moder = 0 ∧ t.pupdr = 0 ∧ t.ospeedr = 0 ∧ t.idr = 0)

/-- State.reset is what pulsing the reset line makes of the construction state of the standard configuration (which of
the spec's states the model calls reset, log entry 7, INIT_ENABLED, log entry 5), its outputs cleared. -/
def Obligations.StateResetIsThePulsedConstructionState : Prop :=
  ∃ t u, step { State.construct Config.standard with pending := pulseResetOps } = .next t ∧ step t = .next u ∧
    { u with events := [] } = State.reset

/-- What reset does not change: external drive, the enable flag, the configuration; and the output lines (pin-changed
and state-changed) change only as the pass's events say. -/
def Obligations.ResetKeepsExternalDriveAndEnable : Prop :=
  ∀ s : State, ∃ t, exec .resetAssert s = .next t ∧ t.resetAsserted = true ∧
    t.externalLevel = s.externalLevel ∧ t.externalDriven = s.externalDriven ∧
    t.peripheralEnabled = s.peripheralEnabled ∧ t.cfg = s.cfg ∧
    (∀ i, (∀ b, Event.pinChanged i b ∉ t.events) →
      t.pinChangedLevel.getLsbD i = s.pinChangedLevel.getLsbD i) ∧
    (∀ i b, Event.pinChanged i b ∈ t.events → t.pinChangedLevel.getLsbD i = b) ∧
    (Event.stateChangedFall ∉ t.events → t.stateChangedLevel = s.stateChangedLevel) ∧
    (Event.stateChangedFall ∈ t.events → t.stateChangedLevel = false)

/-! ## Whole-machine rules -/

/-- The invariant between operations (INV-IDR, INV-HIGH, the lines at rest) is kept by every step from every state that
meets it. Its part on the pin-changed lines at and above PIN_COUNT is the model's, log entry 19. -/
def Obligations.StepKeepsTheInvariant : Prop :=
  ∀ s t : State, PortInv s → step s = .next t → PortInv t

/-- After every operation that runs a pass IDR is the pure function of mode, pull, output data and external drive, from
whatever state; and no step changes the configuration. -/
def Obligations.IdrIsAFunctionOfItsInputs : Prop :=
  ∀ s t : State, step s = .next t →
    (LevelsHold s → ∀ i, i < t.cfg.pinCount.val → t.idr.getLsbD i =
      if t.externalDriven.getLsbD i then t.externalLevel.getLsbD i
      else if modeOf t i = .output then t.odr.getLsbD i
      else decide (pullOf t i = .up)) ∧
    (∀ op rest, s.pending = op :: rest → runsPass s op = true → LevelsHold t)

/-- PIN_COUNT and with it the whole configuration is fixed for the instance's lifetime. -/
def Obligations.ConfigurationIsFixed : Prop :=
  ∀ s : State, s.cfg.pinCount.val ≤ 16 ∧ ∀ t, step s = .next t → t.cfg = s.cfg

/-- The disabled port: a delivered bus operation changes nothing of the state, a read returns 0; after re-enabling
nothing was lost; reset and pin-input operations still change state. -/
def Obligations.DisabledPortIsInertOnTheBus : Prop :=
  ∀ (s : State) (o : Offset) (w : Word) (rest : List Operation), s.peripheralEnabled = false →
    (s.pending = .busRead 4 o.toNat :: rest →
      ∃ t, step s = .next t ∧ t.rdata = some 0 ∧ withoutIo t = withoutIo s) ∧
    (s.pending = .busWrite 4 o.toNat w :: rest →
      ∃ t, step s = .next t ∧ t.rdata = none ∧ withoutIo t = withoutIo s) ∧
    (∀ v : Int, v ≠ 0 → PortInv s → s.pending = .busWrite 4 o.toNat w :: .lineEnable v :: rest →
      ∃ t u, step s = .next t ∧ step t = .next u ∧ withoutIo u = { withoutIo s with peripheralEnabled := true }) ∧
    (∀ i, i < s.cfg.pinCount.val →
      ∃ t, exec (.pinHigh i) s = .next t ∧ t.externalDriven.getLsbD i = true ∧ t.idr.getLsbD i = true) ∧
    (s.resetAsserted = false →
      ∃ t, exec .resetAssert s = .next t ∧ t.resetAsserted = true ∧ t.odr = 0 ∧ t.lckr = 0)

/-- The access matrix: which operation can write which state. -/
def Obligations.OnlyTheNamedOperationsWriteEachState : Prop :=
  ∀ (s t : State) (op : Operation) (rest : List Operation), s.pending = op :: rest → step s = .next t →
    ((∀ i v, op ≠ .linePin i v) → t.externalLevel = s.externalLevel ∧ t.externalDriven = s.externalDriven) ∧
    ((∀ v, op ≠ .lineReset v) →
      t.resetAsserted = s.resetAsserted ∧
      ((∀ w, op ≠ .busWrite 4 0x000 w) → t.moder = s.moder) ∧
      ((∀ w, op ≠ .busWrite 4 0x004 w) → t.otyper = s.otyper) ∧
      ((∀ w, op ≠ .busWrite 4 0x008 w) → t.ospeedr = s.ospeedr) ∧
      ((∀ w, op ≠ .busWrite 4 0x00C w) → t.pupdr = s.pupdr) ∧
      ((∀ w, op ≠ .busWrite 4 0x01C w) → t.lckr = s.lckr) ∧
      ((∀ w, op ≠ .busWrite 4 0x020 w) → t.afrl = s.afrl) ∧
      ((∀ w, op ≠ .busWrite 4 0x024 w) → t.afrh = s.afrh) ∧
      ((∀ w, op ≠ .busWrite 4 0x014 w ∧ op ≠ .busWrite 4 0x018 w ∧ op ≠ .busWrite 4 0x028 w) → t.odr = s.odr)) ∧
    ((∀ v, op ≠ .lineEnable v) → t.peripheralEnabled = s.peripheralEnabled) ∧
    (runsPass s op = false →
      t.idr = s.idr ∧ t.pinChangedLevel = s.pinChangedLevel ∧ t.stateChangedLevel = s.stateChangedLevel)

/-- The call table of the pass: an operation that is accepted emits exactly one pulse if it runs a pass and none
otherwise. -/
def Obligations.PulseExactlyWhenAPassRuns : Prop :=
  ∀ (s t : State) (op : Operation) (rest : List Operation), s.pending = op :: rest → step s = .next t →
    t.events.count .stateChangedRise = (if runsPass s op then 1 else 0) ∧
    t.events.count .stateChangedFall = (if runsPass s op then 1 else 0)

/-- The order of events inside one operation: at most one diagnostic of its own, then pin by pin in ascending order a
short or a notification (never both), then the pulse. -/
def Obligations.EventsComeInTheFixedOrder : Prop :=
  ∀ (s t : State) (op : Operation) (rest : List Operation), s.pending = op :: rest → step s = .next t →
    ∃ (own : List Event) (pin : Nat → List Event),
      (own = [] ∨ ∃ o, own = [.diag (.disabled o)] ∨ own = [.diag (.badOffset o)] ∨ own = [.diag (.readOnly o)]) ∧
      (∀ i, pin i = [] ∨ pin i = [.diag (.short i)] ∨ ∃ b, pin i = [.pinChanged i b]) ∧
      t.events = own ++
        (if runsPass s op then
          (List.range s.cfg.pinCount.val).flatMap pin ++ [.stateChangedRise, .stateChangedFall]
        else [])

/-- A value is returned to the bus master by reads and by nothing else. -/
def Obligations.OnlyReadsReturnData : Prop :=
  ∀ (s t : State) (op : Operation) (rest : List Operation), s.pending = op :: rest → step s = .next t →
    (t.rdata.isSome = true ↔ ∃ size offset, op = .busRead size offset)

/-- Nothing but its own readback depends on an opaque register: blanking OTYPER, OSPEEDR, LCKR, AFRL and AFRH before a
step changes nothing of what the step does beside those registers and the value a read of one of them returns. LCKR
protects nothing, the output type does not alter resolution. -/
def Obligations.OpaqueRegistersInfluenceNothing : Prop :=
  ∀ s t : State, step s = .next t →
    ∃ t', step (blankOpaque s) = .next t' ∧
      { blankOpaque t' with rdata := none } = { blankOpaque t with rdata := none } ∧
      ((∀ o ∈ [(0x004 : Int), 0x008, 0x01C, 0x020, 0x024], ∀ rest, s.pending ≠ .busRead 4 o :: rest) →
        t'.rdata = t.rdata)

/-- The enable flag and the tracked reset level have no part in a pass or a pin-input event: the same pass on a disabled
port, or with reset held, does the same (decisions D5, D11). -/
def Obligations.PassIgnoresTheControlFlags : Prop :=
  ∀ (s : State) (en ra : Bool) (i : Nat),
    ∀ op ∈ [Instr.resolve, Instr.pinFloat i, Instr.pinLow i, Instr.pinHigh i], ∀ t, exec op s = .next t →
      exec op { s with peripheralEnabled := en, resetAsserted := ra } =
        .next { t with peripheralEnabled := en, resetAsserted := ra }

/-- The stale line of the hazard: while a pin is not in INPUT mode its line keeps its level, and back in INPUT mode with
its level unchanged it stays so. -/
def Obligations.LineStaysStaleOutsideInputMode : Prop :=
  ∀ s : State, ∃ t, exec .resolve s = .next t ∧ ∀ i,
    (modeOf s i ≠ .input → t.pinChangedLevel.getLsbD i = s.pinChangedLevel.getLsbD i) ∧
    (LevelsHold s → i < s.cfg.pinCount.val → t.pinChangedLevel.getLsbD i = s.pinChangedLevel.getLsbD i)

/-- SET_PIN and CLR_PIN on an enabled port change exactly bit k of ODR, atomically; CLR_PIN through BRR where it exists
does the same as through BSRR. -/
def Obligations.SetPinAndClrPinChangeOneOdrBit : Prop :=
  ∀ (s : State) (k : Nat) (rest : List Operation), s.peripheralEnabled = true → k < 16 →
    (s.pending = setPinOps k ++ rest → ∃ t, step s = .next t ∧ t.pending = rest ∧
      ∀ j, t.odr.getLsbD j = if j = k then true else s.odr.getLsbD j) ∧
    (s.pending = clrPinOps k ++ rest → ∃ t, step s = .next t ∧ t.pending = rest ∧
      ∀ j, t.odr.getLsbD j = if j = k then false else s.odr.getLsbD j) ∧
    (s.cfg.family ≠ .f4 → s.pending = clrPinBrrOps k ++ rest → ∃ t, step s = .next t ∧ t.pending = rest ∧
      ∀ j, t.odr.getLsbD j = if j = k then false else s.odr.getLsbD j)

/-- The persisted record is sufficient to reconstruct the input data: two ports with one configuration and one record,
both between operations, have the same IDR (the record without IDR, log entry 12). -/
def Obligations.PersistedRecordDeterminesIdr : Prop :=
  ∀ s t : State, PortInv s → PortInv t → s.cfg = t.cfg → persisted s = persisted t → s.idr = t.idr

/-- The construction state (decisions D7, D8): every stored register, the external drive, the tracked reset level and the
output lines are 0 and the enable flag is INIT_ENABLED, for every configuration, whose device defaults are not applied.
The configuration as a field, the empty queue and the empty outputs are the model's, log entries 1, 3 and 4; so are the
pin-changed lines at and above PIN_COUNT, log entry 19. -/
def Obligations.ConstructionStateIsZero : Prop :=
  ∀ c : Config,
    let s := State.construct c
    s.moder = 0 ∧ s.otyper = 0 ∧ s.ospeedr = 0 ∧ s.pupdr = 0 ∧ s.idr = 0 ∧ s.odr = 0 ∧ s.lckr = 0 ∧
    s.afrl = 0 ∧ s.afrh = 0 ∧ s.externalLevel = 0 ∧ s.externalDriven = 0 ∧ s.resetAsserted = false ∧
    s.peripheralEnabled = c.initEnabled ∧ s.pinChangedLevel = 0 ∧ s.stateChangedLevel = false ∧
    s.cfg = c ∧ s.pending = [] ∧ s.rdata = none ∧ s.events = []
end

