-- ==== Sys2Proof/Laws/State.lean ====
section
/-!
SUPPORT. One lemma per field per update of State, true by rfl.
-/
namespace Sys2Proof.Machine

variable (s : State)

/-- A diagnostic is an emitted event. -/
@[simp] theorem diag_eq_emit (d : Diag) : diag d s = emit (.diag d) s := rfl

@[simp] theorem startOperation_cfg : (startOperation s).cfg = s.cfg := rfl
@[simp] theorem startOperation_moder : (startOperation s).moder = s.moder := rfl
@[simp] theorem startOperation_otyper : (startOperation s).otyper = s.otyper := rfl
@[simp] theorem startOperation_ospeedr : (startOperation s).ospeedr = s.ospeedr := rfl
@[simp] theorem startOperation_pupdr : (startOperation s).pupdr = s.pupdr := rfl
@[simp] theorem startOperation_idr : (startOperation s).idr = s.idr := rfl
@[simp] theorem startOperation_odr : (startOperation s).odr = s.odr := rfl
@[simp] theorem startOperation_lckr : (startOperation s).lckr = s.lckr := rfl
@[simp] theorem startOperation_afrl : (startOperation s).afrl = s.afrl := rfl
@[simp] theorem startOperation_afrh : (startOperation s).afrh = s.afrh := rfl
@[simp] theorem startOperation_externalLevel : (startOperation s).externalLevel = s.externalLevel := rfl
@[simp] theorem startOperation_externalDriven : (startOperation s).externalDriven = s.externalDriven := rfl
@[simp] theorem startOperation_resetAsserted : (startOperation s).resetAsserted = s.resetAsserted := rfl
@[simp] theorem startOperation_peripheralEnabled : (startOperation s).peripheralEnabled = s.peripheralEnabled := rfl
@[simp] theorem startOperation_pinChangedLevel : (startOperation s).pinChangedLevel = s.pinChangedLevel := rfl
@[simp] theorem startOperation_stateChangedLevel : (startOperation s).stateChangedLevel = s.stateChangedLevel := rfl
@[simp] theorem startOperation_pending : (startOperation s).pending = s.pending := rfl
@[simp] theorem startOperation_rdata : (startOperation s).rdata = none := rfl
@[simp] theorem startOperation_events : (startOperation s).events = [] := rfl

@[simp] theorem emit_cfg (e : Event) : (emit e s).cfg = s.cfg := rfl
@[simp] theorem emit_moder (e : Event) : (emit e s).moder = s.moder := rfl
@[simp] theorem emit_otyper (e : Event) : (emit e s).otyper = s.otyper := rfl
@[simp] theorem emit_ospeedr (e : Event) : (emit e s).ospeedr = s.ospeedr := rfl
@[simp] theorem emit_pupdr (e : Event) : (emit e s).pupdr = s.pupdr := rfl
@[simp] theorem emit_idr (e : Event) : (emit e s).idr = s.idr := rfl
@[simp] theorem emit_odr (e : Event) : (emit e s).odr = s.odr := rfl
@[simp] theorem emit_lckr (e : Event) : (emit e s).lckr = s.lckr := rfl
@[simp] theorem emit_afrl (e : Event) : (emit e s).afrl = s.afrl := rfl
@[simp] theorem emit_afrh (e : Event) : (emit e s).afrh = s.afrh := rfl
@[simp] theorem emit_externalLevel (e : Event) : (emit e s).externalLevel = s.externalLevel := rfl
@[simp] theorem emit_externalDriven (e : Event) : (emit e s).externalDriven = s.externalDriven := rfl
@[simp] theorem emit_resetAsserted (e : Event) : (emit e s).resetAsserted = s.resetAsserted := rfl
@[simp] theorem emit_peripheralEnabled (e : Event) : (emit e s).peripheralEnabled = s.peripheralEnabled := rfl
@[simp] theorem emit_pinChangedLevel (e : Event) : (emit e s).pinChangedLevel = s.pinChangedLevel := rfl
@[simp] theorem emit_stateChangedLevel (e : Event) : (emit e s).stateChangedLevel = s.stateChangedLevel := rfl
@[simp] theorem emit_pending (e : Event) : (emit e s).pending = s.pending := rfl
@[simp] theorem emit_rdata (e : Event) : (emit e s).rdata = s.rdata := rfl
@[simp] theorem emit_events (e : Event) : (emit e s).events = s.events ++ [e] := rfl

@[simp] theorem returnData_cfg (v : Word) : (returnData v s).cfg = s.cfg := rfl
@[simp] theorem returnData_moder (v : Word) : (returnData v s).moder = s.moder := rfl
@[simp] theorem returnData_otyper (v : Word) : (returnData v s).otyper = s.otyper := rfl
@[simp] theorem returnData_ospeedr (v : Word) : (returnData v s).ospeedr = s.ospeedr := rfl
@[simp] theorem returnData_pupdr (v : Word) : (returnData v s).pupdr = s.pupdr := rfl
@[simp] theorem returnData_idr (v : Word) : (returnData v s).idr = s.idr := rfl
@[simp] theorem returnData_odr (v : Word) : (returnData v s).odr = s.odr := rfl
@[simp] theorem returnData_lckr (v : Word) : (returnData v s).lckr = s.lckr := rfl
@[simp] theorem returnData_afrl (v : Word) : (returnData v s).afrl = s.afrl := rfl
@[simp] theorem returnData_afrh (v : Word) : (returnData v s).afrh = s.afrh := rfl
@[simp] theorem returnData_externalLevel (v : Word) : (returnData v s).externalLevel = s.externalLevel := rfl
@[simp] theorem returnData_externalDriven (v : Word) : (returnData v s).externalDriven = s.externalDriven := rfl
@[simp] theorem returnData_resetAsserted (v : Word) : (returnData v s).resetAsserted = s.resetAsserted := rfl
@[simp] theorem returnData_peripheralEnabled (v : Word) : (returnData v s).peripheralEnabled = s.peripheralEnabled := rfl
@[simp] theorem returnData_pinChangedLevel (v : Word) : (returnData v s).pinChangedLevel = s.pinChangedLevel := rfl
@[simp] theorem returnData_stateChangedLevel (v : Word) : (returnData v s).stateChangedLevel = s.stateChangedLevel := rfl
@[simp] theorem returnData_pending (v : Word) : (returnData v s).pending = s.pending := rfl
@[simp] theorem returnData_rdata (v : Word) : (returnData v s).rdata = some v := rfl
@[simp] theorem returnData_events (v : Word) : (returnData v s).events = s.events := rfl

@[simp] theorem setIdrBit_cfg (i : Nat) (b : Bool) : (setIdrBit i b s).cfg = s.cfg := rfl
@[simp] theorem setIdrBit_moder (i : Nat) (b : Bool) : (setIdrBit i b s).moder = s.moder := rfl
@[simp] theorem setIdrBit_otyper (i : Nat) (b : Bool) : (setIdrBit i b s).otyper = s.otyper := rfl
@[simp] theorem setIdrBit_ospeedr (i : Nat) (b : Bool) : (setIdrBit i b s).ospeedr = s.ospeedr := rfl
@[simp] theorem setIdrBit_pupdr (i : Nat) (b : Bool) : (setIdrBit i b s).pupdr = s.pupdr := rfl
@[simp] theorem setIdrBit_idr (i : Nat) (b : Bool) : (setIdrBit i b s).idr = setBit s.idr i b := rfl
@[simp] theorem setIdrBit_odr (i : Nat) (b : Bool) : (setIdrBit i b s).odr = s.odr := rfl
@[simp] theorem setIdrBit_lckr (i : Nat) (b : Bool) : (setIdrBit i b s).lckr = s.lckr := rfl
@[simp] theorem setIdrBit_afrl (i : Nat) (b : Bool) : (setIdrBit i b s).afrl = s.afrl := rfl
@[simp] theorem setIdrBit_afrh (i : Nat) (b : Bool) : (setIdrBit i b s).afrh = s.afrh := rfl
@[simp] theorem setIdrBit_externalLevel (i : Nat) (b : Bool) : (setIdrBit i b s).externalLevel = s.externalLevel := rfl
@[simp] theorem setIdrBit_externalDriven (i : Nat) (b : Bool) : (setIdrBit i b s).externalDriven = s.externalDriven := rfl
@[simp] theorem setIdrBit_resetAsserted (i : Nat) (b : Bool) : (setIdrBit i b s).resetAsserted = s.resetAsserted := rfl
@[simp] theorem setIdrBit_peripheralEnabled (i : Nat) (b : Bool) : (setIdrBit i b s).peripheralEnabled = s.peripheralEnabled := rfl
@[simp] theorem setIdrBit_pinChangedLevel (i : Nat) (b : Bool) : (setIdrBit i b s).pinChangedLevel = s.pinChangedLevel := rfl
@[simp] theorem setIdrBit_stateChangedLevel (i : Nat) (b : Bool) : (setIdrBit i b s).stateChangedLevel = s.stateChangedLevel := rfl
@[simp] theorem setIdrBit_pending (i : Nat) (b : Bool) : (setIdrBit i b s).pending = s.pending := rfl
@[simp] theorem setIdrBit_rdata (i : Nat) (b : Bool) : (setIdrBit i b s).rdata = s.rdata := rfl
@[simp] theorem setIdrBit_events (i : Nat) (b : Bool) : (setIdrBit i b s).events = s.events := rfl

@[simp] theorem setDriven_cfg (i : Nat) (b : Bool) : (setDriven i b s).cfg = s.cfg := rfl
@[simp] theorem setDriven_moder (i : Nat) (b : Bool) : (setDriven i b s).moder = s.moder := rfl
@[simp] theorem setDriven_otyper (i : Nat) (b : Bool) : (setDriven i b s).otyper = s.otyper := rfl
@[simp] theorem setDriven_ospeedr (i : Nat) (b : Bool) : (setDriven i b s).ospeedr = s.ospeedr := rfl
@[simp] theorem setDriven_pupdr (i : Nat) (b : Bool) : (setDriven i b s).pupdr = s.pupdr := rfl
@[simp] theorem setDriven_idr (i : Nat) (b : Bool) : (setDriven i b s).idr = s.idr := rfl
@[simp] theorem setDriven_odr (i : Nat) (b : Bool) : (setDriven i b s).odr = s.odr := rfl
@[simp] theorem setDriven_lckr (i : Nat) (b : Bool) : (setDriven i b s).lckr = s.lckr := rfl
@[simp] theorem setDriven_afrl (i : Nat) (b : Bool) : (setDriven i b s).afrl = s.afrl := rfl
@[simp] theorem setDriven_afrh (i : Nat) (b : Bool) : (setDriven i b s).afrh = s.afrh := rfl
@[simp] theorem setDriven_externalLevel (i : Nat) (b : Bool) : (setDriven i b s).externalLevel = s.externalLevel := rfl
@[simp] theorem setDriven_externalDriven (i : Nat) (b : Bool) : (setDriven i b s).externalDriven = setBit s.externalDriven i b := rfl
@[simp] theorem setDriven_resetAsserted (i : Nat) (b : Bool) : (setDriven i b s).resetAsserted = s.resetAsserted := rfl
@[simp] theorem setDriven_peripheralEnabled (i : Nat) (b : Bool) : (setDriven i b s).peripheralEnabled = s.peripheralEnabled := rfl
@[simp] theorem setDriven_pinChangedLevel (i : Nat) (b : Bool) : (setDriven i b s).pinChangedLevel = s.pinChangedLevel := rfl
@[simp] theorem setDriven_stateChangedLevel (i : Nat) (b : Bool) : (setDriven i b s).stateChangedLevel = s.stateChangedLevel := rfl
@[simp] theorem setDriven_pending (i : Nat) (b : Bool) : (setDriven i b s).pending = s.pending := rfl
@[simp] theorem setDriven_rdata (i : Nat) (b : Bool) : (setDriven i b s).rdata = s.rdata := rfl
@[simp] theorem setDriven_events (i : Nat) (b : Bool) : (setDriven i b s).events = s.events := rfl

@[simp] theorem setLevel_cfg (i : Nat) (b : Bool) : (setLevel i b s).cfg = s.cfg := rfl
@[simp] theorem setLevel_moder (i : Nat) (b : Bool) : (setLevel i b s).moder = s.moder := rfl
@[simp] theorem setLevel_otyper (i : Nat) (b : Bool) : (setLevel i b s).otyper = s.otyper := rfl
@[simp] theorem setLevel_ospeedr (i : Nat) (b : Bool) : (setLevel i b s).ospeedr = s.ospeedr := rfl
@[simp] theorem setLevel_pupdr (i : Nat) (b : Bool) : (setLevel i b s).pupdr = s.pupdr := rfl
@[simp] theorem setLevel_idr (i : Nat) (b : Bool) : (setLevel i b s).idr = s.idr := rfl
@[simp] theorem setLevel_odr (i : Nat) (b : Bool) : (setLevel i b s).odr = s.odr := rfl
@[simp] theorem setLevel_lckr (i : Nat) (b : Bool) : (setLevel i b s).lckr = s.lckr := rfl
@[simp] theorem setLevel_afrl (i : Nat) (b : Bool) : (setLevel i b s).afrl = s.afrl := rfl
@[simp] theorem setLevel_afrh (i : Nat) (b : Bool) : (setLevel i b s).afrh = s.afrh := rfl
@[simp] theorem setLevel_externalLevel (i : Nat) (b : Bool) : (setLevel i b s).externalLevel = setBit s.externalLevel i b := rfl
@[simp] theorem setLevel_externalDriven (i : Nat) (b : Bool) : (setLevel i b s).externalDriven = s.externalDriven := rfl
@[simp] theorem setLevel_resetAsserted (i : Nat) (b : Bool) : (setLevel i b s).resetAsserted = s.resetAsserted := rfl
@[simp] theorem setLevel_peripheralEnabled (i : Nat) (b : Bool) : (setLevel i b s).peripheralEnabled = s.peripheralEnabled := rfl
@[simp] theorem setLevel_pinChangedLevel (i : Nat) (b : Bool) : (setLevel i b s).pinChangedLevel = s.pinChangedLevel := rfl
@[simp] theorem setLevel_stateChangedLevel (i : Nat) (b : Bool) : (setLevel i b s).stateChangedLevel = s.stateChangedLevel := rfl
@[simp] theorem setLevel_pending (i : Nat) (b : Bool) : (setLevel i b s).pending = s.pending := rfl
@[simp] theorem setLevel_rdata (i : Nat) (b : Bool) : (setLevel i b s).rdata = s.rdata := rfl
@[simp] theorem setLevel_events (i : Nat) (b : Bool) : (setLevel i b s).events = s.events := rfl

@[simp] theorem setResetAsserted_cfg (b : Bool) : (setResetAsserted b s).cfg = s.cfg := rfl
@[simp] theorem setResetAsserted_moder (b : Bool) : (setResetAsserted b s).moder = s.moder := rfl
@[simp] theorem setResetAsserted_otyper (b : Bool) : (setResetAsserted b s).otyper = s.otyper := rfl
@[simp] theorem setResetAsserted_ospeedr (b : Bool) : (setResetAsserted b s).ospeedr = s.ospeedr := rfl
@[simp] theorem setResetAsserted_pupdr (b : Bool) : (setResetAsserted b s).pupdr = s.pupdr := rfl
@[simp] theorem setResetAsserted_idr (b : Bool) : (setResetAsserted b s).idr = s.idr := rfl
@[simp] theorem setResetAsserted_odr (b : Bool) : (setResetAsserted b s).odr = s.odr := rfl
@[simp] theorem setResetAsserted_lckr (b : Bool) : (setResetAsserted b s).lckr = s.lckr := rfl
@[simp] theorem setResetAsserted_afrl (b : Bool) : (setResetAsserted b s).afrl = s.afrl := rfl
@[simp] theorem setResetAsserted_afrh (b : Bool) : (setResetAsserted b s).afrh = s.afrh := rfl
@[simp] theorem setResetAsserted_externalLevel (b : Bool) : (setResetAsserted b s).externalLevel = s.externalLevel := rfl
@[simp] theorem setResetAsserted_externalDriven (b : Bool) : (setResetAsserted b s).externalDriven = s.externalDriven := rfl
@[simp] theorem setResetAsserted_resetAsserted (b : Bool) : (setResetAsserted b s).resetAsserted = b := rfl
@[simp] theorem setResetAsserted_peripheralEnabled (b : Bool) : (setResetAsserted b s).peripheralEnabled = s.peripheralEnabled := rfl
@[simp] theorem setResetAsserted_pinChangedLevel (b : Bool) : (setResetAsserted b s).pinChangedLevel = s.pinChangedLevel := rfl
@[simp] theorem setResetAsserted_stateChangedLevel (b : Bool) : (setResetAsserted b s).stateChangedLevel = s.stateChangedLevel := rfl
@[simp] theorem setResetAsserted_pending (b : Bool) : (setResetAsserted b s).pending = s.pending := rfl
@[simp] theorem setResetAsserted_rdata (b : Bool) : (setResetAsserted b s).rdata = s.rdata := rfl
@[simp] theorem setResetAsserted_events (b : Bool) : (setResetAsserted b s).events = s.events := rfl

@[simp] theorem setEnabled_cfg (b : Bool) : (setEnabled b s).cfg = s.cfg := rfl
@[simp] theorem setEnabled_moder (b : Bool) : (setEnabled b s).moder = s.moder := rfl
@[simp] theorem setEnabled_otyper (b : Bool) : (setEnabled b s).otyper = s.otyper := rfl
@[simp] theorem setEnabled_ospeedr (b : Bool) : (setEnabled b s).ospeedr = s.ospeedr := rfl
@[simp] theorem setEnabled_pupdr (b : Bool) : (setEnabled b s).pupdr = s.pupdr := rfl
@[simp] theorem setEnabled_idr (b : Bool) : (setEnabled b s).idr = s.idr := rfl
@[simp] theorem setEnabled_odr (b : Bool) : (setEnabled b s).odr = s.odr := rfl
@[simp] theorem setEnabled_lckr (b : Bool) : (setEnabled b s).lckr = s.lckr := rfl
@[simp] theorem setEnabled_afrl (b : Bool) : (setEnabled b s).afrl = s.afrl := rfl
@[simp] theorem setEnabled_afrh (b : Bool) : (setEnabled b s).afrh = s.afrh := rfl
@[simp] theorem setEnabled_externalLevel (b : Bool) : (setEnabled b s).externalLevel = s.externalLevel := rfl
@[simp] theorem setEnabled_externalDriven (b : Bool) : (setEnabled b s).externalDriven = s.externalDriven := rfl
@[simp] theorem setEnabled_resetAsserted (b : Bool) : (setEnabled b s).resetAsserted = s.resetAsserted := rfl
@[simp] theorem setEnabled_peripheralEnabled (b : Bool) : (setEnabled b s).peripheralEnabled = b := rfl
@[simp] theorem setEnabled_pinChangedLevel (b : Bool) : (setEnabled b s).pinChangedLevel = s.pinChangedLevel := rfl
@[simp] theorem setEnabled_stateChangedLevel (b : Bool) : (setEnabled b s).stateChangedLevel = s.stateChangedLevel := rfl
@[simp] theorem setEnabled_pending (b : Bool) : (setEnabled b s).pending = s.pending := rfl
@[simp] theorem setEnabled_rdata (b : Bool) : (setEnabled b s).rdata = s.rdata := rfl
@[simp] theorem setEnabled_events (b : Bool) : (setEnabled b s).events = s.events := rfl

@[simp] theorem setPinChanged_cfg (i : Nat) (b : Bool) : (setPinChanged i b s).cfg = s.cfg := rfl
@[simp] theorem setPinChanged_moder (i : Nat) (b : Bool) : (setPinChanged i b s).moder = s.moder := rfl
@[simp] theorem setPinChanged_otyper (i : Nat) (b : Bool) : (setPinChanged i b s).otyper = s.otyper := rfl
@[simp] theorem setPinChanged_ospeedr (i : Nat) (b : Bool) : (setPinChanged i b s).ospeedr = s.ospeedr := rfl
@[simp] theorem setPinChanged_pupdr (i : Nat) (b : Bool) : (setPinChanged i b s).pupdr = s.pupdr := rfl
@[simp] theorem setPinChanged_idr (i : Nat) (b : Bool) : (setPinChanged i b s).idr = s.idr := rfl
@[simp] theorem setPinChanged_odr (i : Nat) (b : Bool) : (setPinChanged i b s).odr = s.odr := rfl
@[simp] theorem setPinChanged_lckr (i : Nat) (b : Bool) : (setPinChanged i b s).lckr = s.lckr := rfl
@[simp] theorem setPinChanged_afrl (i : Nat) (b : Bool) : (setPinChanged i b s).afrl = s.afrl := rfl
@[simp] theorem setPinChanged_afrh (i : Nat) (b : Bool) : (setPinChanged i b s).afrh = s.afrh := rfl
@[simp] theorem setPinChanged_externalLevel (i : Nat) (b : Bool) : (setPinChanged i b s).externalLevel = s.externalLevel := rfl
@[simp] theorem setPinChanged_externalDriven (i : Nat) (b : Bool) : (setPinChanged i b s).externalDriven = s.externalDriven := rfl
@[simp] theorem setPinChanged_resetAsserted (i : Nat) (b : Bool) : (setPinChanged i b s).resetAsserted = s.resetAsserted := rfl
@[simp] theorem setPinChanged_peripheralEnabled (i : Nat) (b : Bool) : (setPinChanged i b s).peripheralEnabled = s.peripheralEnabled := rfl
@[simp] theorem setPinChanged_pinChangedLevel (i : Nat) (b : Bool) : (setPinChanged i b s).pinChangedLevel = setBit s.pinChangedLevel i b := rfl
@[simp] theorem setPinChanged_stateChangedLevel (i : Nat) (b : Bool) : (setPinChanged i b s).stateChangedLevel = s.stateChangedLevel := rfl
@[simp] theorem setPinChanged_pending (i : Nat) (b : Bool) : (setPinChanged i b s).pending = s.pending := rfl
@[simp] theorem setPinChanged_rdata (i : Nat) (b : Bool) : (setPinChanged i b s).rdata = s.rdata := rfl
@[simp] theorem setPinChanged_events (i : Nat) (b : Bool) : (setPinChanged i b s).events = s.events := rfl

@[simp] theorem setStateChanged_cfg (b : Bool) : (setStateChanged b s).cfg = s.cfg := rfl
@[simp] theorem setStateChanged_moder (b : Bool) : (setStateChanged b s).moder = s.moder := rfl
@[simp] theorem setStateChanged_otyper (b : Bool) : (setStateChanged b s).otyper = s.otyper := rfl
@[simp] theorem setStateChanged_ospeedr (b : Bool) : (setStateChanged b s).ospeedr = s.ospeedr := rfl
@[simp] theorem setStateChanged_pupdr (b : Bool) : (setStateChanged b s).pupdr = s.pupdr := rfl
@[simp] theorem setStateChanged_idr (b : Bool) : (setStateChanged b s).idr = s.idr := rfl
@[simp] theorem setStateChanged_odr (b : Bool) : (setStateChanged b s).odr = s.odr := rfl
@[simp] theorem setStateChanged_lckr (b : Bool) : (setStateChanged b s).lckr = s.lckr := rfl
@[simp] theorem setStateChanged_afrl (b : Bool) : (setStateChanged b s).afrl = s.afrl := rfl
@[simp] theorem setStateChanged_afrh (b : Bool) : (setStateChanged b s).afrh = s.afrh := rfl
@[simp] theorem setStateChanged_externalLevel (b : Bool) : (setStateChanged b s).externalLevel = s.externalLevel := rfl
@[simp] theorem setStateChanged_externalDriven (b : Bool) : (setStateChanged b s).externalDriven = s.externalDriven := rfl
@[simp] theorem setStateChanged_resetAsserted (b : Bool) : (setStateChanged b s).resetAsserted = s.resetAsserted := rfl
@[simp] theorem setStateChanged_peripheralEnabled (b : Bool) : (setStateChanged b s).peripheralEnabled = s.peripheralEnabled := rfl
@[simp] theorem setStateChanged_pinChangedLevel (b : Bool) : (setStateChanged b s).pinChangedLevel = s.pinChangedLevel := rfl
@[simp] theorem setStateChanged_stateChangedLevel (b : Bool) : (setStateChanged b s).stateChangedLevel = b := rfl
@[simp] theorem setStateChanged_pending (b : Bool) : (setStateChanged b s).pending = s.pending := rfl
@[simp] theorem setStateChanged_rdata (b : Bool) : (setStateChanged b s).rdata = s.rdata := rfl
@[simp] theorem setStateChanged_events (b : Bool) : (setStateChanged b s).events = s.events := rfl

@[simp] theorem takeOperation_cfg (l : List Operation) : (takeOperation l s).cfg = s.cfg := rfl
@[simp] theorem takeOperation_moder (l : List Operation) : (takeOperation l s).moder = s.moder := rfl
@[simp] theorem takeOperation_otyper (l : List Operation) : (takeOperation l s).otyper = s.otyper := rfl
@[simp] theorem takeOperation_ospeedr (l : List Operation) : (takeOperation l s).ospeedr = s.ospeedr := rfl
@[simp] theorem takeOperation_pupdr (l : List Operation) : (takeOperation l s).pupdr = s.pupdr := rfl
@[simp] theorem takeOperation_idr (l : List Operation) : (takeOperation l s).idr = s.idr := rfl
@[simp] theorem takeOperation_odr (l : List Operation) : (takeOperation l s).odr = s.odr := rfl
@[simp] theorem takeOperation_lckr (l : List Operation) : (takeOperation l s).lckr = s.lckr := rfl
@[simp] theorem takeOperation_afrl (l : List Operation) : (takeOperation l s).afrl = s.afrl := rfl
@[simp] theorem takeOperation_afrh (l : List Operation) : (takeOperation l s).afrh = s.afrh := rfl
@[simp] theorem takeOperation_externalLevel (l : List Operation) : (takeOperation l s).externalLevel = s.externalLevel := rfl
@[simp] theorem takeOperation_externalDriven (l : List Operation) : (takeOperation l s).externalDriven = s.externalDriven := rfl
@[simp] theorem takeOperation_resetAsserted (l : List Operation) : (takeOperation l s).resetAsserted = s.resetAsserted := rfl
@[simp] theorem takeOperation_peripheralEnabled (l : List Operation) : (takeOperation l s).peripheralEnabled = s.peripheralEnabled := rfl
@[simp] theorem takeOperation_pinChangedLevel (l : List Operation) : (takeOperation l s).pinChangedLevel = s.pinChangedLevel := rfl
@[simp] theorem takeOperation_stateChangedLevel (l : List Operation) : (takeOperation l s).stateChangedLevel = s.stateChangedLevel := rfl
@[simp] theorem takeOperation_pending (l : List Operation) : (takeOperation l s).pending = l := rfl
@[simp] theorem takeOperation_rdata (l : List Operation) : (takeOperation l s).rdata = s.rdata := rfl
@[simp] theorem takeOperation_events (l : List Operation) : (takeOperation l s).events = s.events := rfl

@[simp] theorem zeroRegisters_cfg : (zeroRegisters s).cfg = s.cfg := rfl
@[simp] theorem zeroRegisters_moder : (zeroRegisters s).moder = 0 := rfl
@[simp] theorem zeroRegisters_otyper : (zeroRegisters s).otyper = 0 := rfl
@[simp] theorem zeroRegisters_ospeedr : (zeroRegisters s).ospeedr = 0 := rfl
@[simp] theorem zeroRegisters_pupdr : (zeroRegisters s).pupdr = 0 := rfl
@[simp] theorem zeroRegisters_idr : (zeroRegisters s).idr = 0 := rfl
@[simp] theorem zeroRegisters_odr : (zeroRegisters s).odr = 0 := rfl
@[simp] theorem zeroRegisters_lckr : (zeroRegisters s).lckr = 0 := rfl
@[simp] theorem zeroRegisters_afrl : (zeroRegisters s).afrl = 0 := rfl
@[simp] theorem zeroRegisters_afrh : (zeroRegisters s).afrh = 0 := rfl
@[simp] theorem zeroRegisters_externalLevel : (zeroRegisters s).externalLevel = s.externalLevel := rfl
@[simp] theorem zeroRegisters_externalDriven : (zeroRegisters s).externalDriven = s.externalDriven := rfl
@[simp] theorem zeroRegisters_resetAsserted : (zeroRegisters s).resetAsserted = s.resetAsserted := rfl
@[simp] theorem zeroRegisters_peripheralEnabled : (zeroRegisters s).peripheralEnabled = s.peripheralEnabled := rfl
@[simp] theorem zeroRegisters_pinChangedLevel : (zeroRegisters s).pinChangedLevel = s.pinChangedLevel := rfl
@[simp] theorem zeroRegisters_stateChangedLevel : (zeroRegisters s).stateChangedLevel = s.stateChangedLevel := rfl
@[simp] theorem zeroRegisters_pending : (zeroRegisters s).pending = s.pending := rfl
@[simp] theorem zeroRegisters_rdata : (zeroRegisters s).rdata = s.rdata := rfl
@[simp] theorem zeroRegisters_events : (zeroRegisters s).events = s.events := rfl

@[simp] theorem applyDefaults_cfg : (applyDefaults s).cfg = s.cfg := rfl
@[simp] theorem applyDefaults_moder : (applyDefaults s).moder = (resetDefaults s.cfg.family s.cfg.port).moder := rfl
@[simp] theorem applyDefaults_otyper : (applyDefaults s).otyper = s.otyper := rfl
@[simp] theorem applyDefaults_ospeedr : (applyDefaults s).ospeedr = (resetDefaults s.cfg.family s.cfg.port).ospeedr := rfl
@[simp] theorem applyDefaults_pupdr : (applyDefaults s).pupdr = (resetDefaults s.cfg.family s.cfg.port).pupdr := rfl
@[simp] theorem applyDefaults_idr : (applyDefaults s).idr = s.idr := rfl
@[simp] theorem applyDefaults_odr : (applyDefaults s).odr = s.odr := rfl
@[simp] theorem applyDefaults_lckr : (applyDefaults s).lckr = s.lckr := rfl
@[simp] theorem applyDefaults_afrl : (applyDefaults s).afrl = s.afrl := rfl
@[simp] theorem applyDefaults_afrh : (applyDefaults s).afrh = s.afrh := rfl
@[simp] theorem applyDefaults_externalLevel : (applyDefaults s).externalLevel = s.externalLevel := rfl
@[simp] theorem applyDefaults_externalDriven : (applyDefaults s).externalDriven = s.externalDriven := rfl
@[simp] theorem applyDefaults_resetAsserted : (applyDefaults s).resetAsserted = s.resetAsserted := rfl
@[simp] theorem applyDefaults_peripheralEnabled : (applyDefaults s).peripheralEnabled = s.peripheralEnabled := rfl
@[simp] theorem applyDefaults_pinChangedLevel : (applyDefaults s).pinChangedLevel = s.pinChangedLevel := rfl
@[simp] theorem applyDefaults_stateChangedLevel : (applyDefaults s).stateChangedLevel = s.stateChangedLevel := rfl
@[simp] theorem applyDefaults_pending : (applyDefaults s).pending = s.pending := rfl
@[simp] theorem applyDefaults_rdata : (applyDefaults s).rdata = s.rdata := rfl
@[simp] theorem applyDefaults_events : (applyDefaults s).events = s.events := rfl

/-- Decoding sees the same of a state whose queue is changed. -/
@[simp] theorem decodeContext_takeOperation (l : List Operation) :
    decodeContext (takeOperation l s) = decodeContext s := rfl

end Sys2Proof.Machine
end

