-- ==== Sys2Proof/Laws/Bits.lean ====
section
/-!
SUPPORT. Bit-level facts of the operand forms: single-bit writes, the fields and codes, the BSRR and BRR masks.
-/
namespace Sys2Proof.Machine

/-- Reading after a one-bit write. -/
theorem getLsbD_setBit {n : Nat} (v : BitVec n) (i j : Nat) (b : Bool) :
    (setBit v i b).getLsbD j = if i = j ∧ j < n then b else v.getLsbD j := by
  by_cases hj : j < n
  · by_cases hij : i = j
    · subst hij; cases b <;> simp [setBit, hj]
    · have hji : j ≠ i := Ne.symm hij
      cases b <;> simp [setBit, hj, hij, hji]
  · simp [hj, BitVec.getLsbD_of_ge _ _ (Nat.le_of_not_lt hj)]

/-- The bits of a 2-bit field. -/
theorem getLsbD_field2 (v : Word) (i k : Nat) :
    (field2 v i).getLsbD k = (decide (k < 2) && v.getLsbD (2 * i + k)) := by
  simp [field2, BitVec.getLsbD_setWidth]

/-- The bits of a 4-bit field. -/
theorem getLsbD_field4 (v : Word) (i k : Nat) :
    (field4 v i).getLsbD k = (decide (k < 4) && v.getLsbD (4 * i + k)) := by
  simp [field4, BitVec.getLsbD_setWidth]

/-- A 2-bit value is known by its two bits. -/
theorem bits2_eq_iff (c d : BitVec 2) : c = d ↔ c.getLsbD 1 = d.getLsbD 1 ∧ c.getLsbD 0 = d.getLsbD 0 := by
  revert c d; decide

theorem modeOfCode_eq_input (c : BitVec 2) : modeOfCode c = .input ↔ c = 0#2 := by revert c; decide

theorem modeOfCode_eq_output (c : BitVec 2) : modeOfCode c = .output ↔ c = 1#2 := by revert c; decide

theorem pullOfCode_eq_up (c : BitVec 2) : pullOfCode c = .up ↔ c = 1#2 := by revert c; decide

/-- A pin is in INPUT mode exactly when its two MODER bits are 0, 0. -/
theorem modeOf_eq_input (s : State) (i : Nat) :
    modeOf s i = .input ↔ s.moder.getLsbD (2 * i + 1) = false ∧ s.moder.getLsbD (2 * i) = false := by
  simp only [modeOf, modeOfCode_eq_input, bits2_eq_iff, getLsbD_field2]; simp

/-- A pin is in OUTPUT mode exactly when its two MODER bits are 0, 1. -/
theorem modeOf_eq_output (s : State) (i : Nat) :
    modeOf s i = .output ↔ s.moder.getLsbD (2 * i + 1) = false ∧ s.moder.getLsbD (2 * i) = true := by
  simp only [modeOf, modeOfCode_eq_output, bits2_eq_iff, getLsbD_field2]; simp

/-- A pin's pull is UP exactly when its two PUPDR bits are 0, 1. -/
theorem pullOf_eq_up (s : State) (i : Nat) :
    pullOf s i = .up ↔ s.pupdr.getLsbD (2 * i + 1) = false ∧ s.pupdr.getLsbD (2 * i) = true := by
  simp only [pullOf, pullOfCode_eq_up, bits2_eq_iff, getLsbD_field2]; simp

/-- A bit of the low-half mask. -/
theorem getLsbD_lowHalf (k : Nat) : (0xFFFF#32).getLsbD k = decide (k < 16) := by
  have h : ∀ k : Fin 32, (0xFFFF#32).getLsbD k.val = decide (k.val < 16) := by decide
  by_cases hk : k < 32
  · exact h ⟨k, hk⟩
  · rw [BitVec.getLsbD_of_ge _ _ (Nat.le_of_not_lt hk)]
    simp; omega

theorem getLsbD_bsrrSetMask (w : Word) (k : Nat) :
    (bsrrSetMask w).getLsbD k = (decide (k < 16) && w.getLsbD k) := by
  simp only [bsrrSetMask, BitVec.getLsbD_and, getLsbD_lowHalf]; cases w.getLsbD k <;> simp

theorem getLsbD_bsrrResetMask (w : Word) (k : Nat) :
    (bsrrResetMask w).getLsbD k = (decide (k < 16) && w.getLsbD (16 + k)) := by
  simp only [bsrrResetMask, BitVec.getLsbD_and, BitVec.getLsbD_ushiftRight, getLsbD_lowHalf]
  cases w.getLsbD (16 + k) <;> simp

theorem getLsbD_brrResetMask (w : Word) (k : Nat) :
    (brrResetMask w).getLsbD k = (decide (k < 16) && w.getLsbD k) := getLsbD_bsrrSetMask w k

end Sys2Proof.Machine
end

