-- ==== Sys2Proof/Laws/Decode.lean ====
section
/-!
SUPPORT. Facts of the encoded forms: the register map, the selectors, which integers a class stands for.
-/
namespace Sys2Proof

/-- The register map is read back (20_memory.md R61). -/
@[simp] theorem regAt_regOffset (r : Reg) : regAt (regOffset r) = some r := by cases r <;> decide

/-- A register lies at exactly one offset. -/
theorem regAt_eq_some {o : Offset} {r : Reg} : regAt o = some r ↔ o = regOffset r := by
  constructor
  · intro h
    have := List.find?_some h
    simpa using (beq_iff_eq.mp this).symm
  · rintro rfl; simp

/-- Every offset of the map is a mapped offset. -/
theorem mappedOffset_regOffset (r : Reg) : mappedOffset (regOffset r) = true := by cases r <;> decide

/-- No register lies exactly where the offset is not a multiple of 4 up to 0x028. -/
theorem regAt_eq_none {o : Offset} : regAt o = none ↔ mappedOffset o = false := by
  constructor
  · intro h
    by_contra hm
    simp only [Bool.not_eq_false] at hm
    simp only [mappedOffset, Bool.and_eq_true, beq_iff_eq, decide_eq_true_eq] at hm
    have hk : ∀ k : Fin 11, regAt (BitVec.ofNat 10 (4 * k.val)) ≠ none := by decide
    have hlt : o.toNat / 4 < 11 := by omega
    have ho : BitVec.ofNat 10 (4 * (o.toNat / 4)) = o := by
      have : 4 * (o.toNat / 4) = o.toNat := by omega
      rw [this]; simp
    exact hk ⟨o.toNat / 4, hlt⟩ (by rw [ho]; exact h)
  · intro h
    cases hr : regAt o with
    | none => rfl
    | some r =>
      rw [regAt_eq_some] at hr
      subst hr
      rw [mappedOffset_regOffset] at h
      cases h

/-- Bit 10 of the bus selector is w. -/
@[simp] theorem getLsbD_busSelector (w : Bool) (o : Offset) : (busSelector w o).getLsbD 10 = w := by
  rw [busSelector, BitVec.getLsbD_append]; cases w <;> rfl

@[simp] theorem getElem_busSelector (w : Bool) (o : Offset) : (busSelector w o)[10] = w := by
  rw [← BitVec.getLsbD_eq_getElem, getLsbD_busSelector]

/-- Bits 9 to 0 of the bus selector are the offset. -/
@[simp] theorem setWidth_busSelector (w : Bool) (o : Offset) : (busSelector w o).setWidth 10 = o := by
  apply BitVec.eq_of_getLsbD_eq
  intro i hi
  rw [BitVec.getLsbD_setWidth, busSelector, BitVec.getLsbD_append]
  simp [hi]

/-- A bus selector is its two parts. -/
theorem busSelector_parts (sel : BitVec 11) : busSelector (sel.getLsbD 10) (sel.setWidth 10) = sel := by
  apply BitVec.eq_of_getLsbD_eq
  intro i hi
  simp only [busSelector, BitVec.getLsbD_append, BitVec.getLsbD_setWidth]
  by_cases h : i < 10
  · simp [h]
  · have : i = 10 := by omega
    subst this; simp

/-- The selectors of the mapped offsets. -/
theorem busSelector_regOffset :
    (∀ r, busSelector false (regOffset r) = BitVec.ofNat 11 (regOffset r).toNat) ∧
    (∀ r, busSelector true (regOffset r) = BitVec.ofNat 11 (0x400 + (regOffset r).toNat)) := by
  constructor <;> intro r <;> cases r <;> decide

/-- A delivered access has a 10-bit offset, unchanged by the selector. -/
theorem toNat_ofInt_of_deliverable {size : Nat} {offset : Int} (h : deliverable size offset = true) :
    ((BitVec.ofInt 10 offset).toNat : Int) = offset := by
  simp only [deliverable, Bool.and_eq_true, decide_eq_true_eq] at h
  simp [BitVec.toNat_ofInt]
  omega

/-- The class of an integer is one of three (30_encoding.md R102). -/
theorem pinClass_cases (v : Int) :
    (v < 0 ∧ pinClass v = 0b10#2) ∨ (v = 0 ∧ pinClass v = 0b00#2) ∨ (0 < v ∧ pinClass v = 0b01#2) := by
  rcases lt_trichotomy v 0 with h | h | h
  · exact .inl ⟨h, by simp [pinClass, h]⟩
  · exact .inr (.inl ⟨h, by simp [pinClass, h]⟩)
  · exact .inr (.inr ⟨h, by simp [pinClass, Int.not_lt.mpr h.le, h.ne']⟩)

/-- A pin index that passes the check is a natural number below PIN_COUNT. -/
theorem pinIndexOk_iff {n : Nat} {i : Int} : pinIndexOk n i = true ↔ ∃ k : Nat, i = k ∧ k < n := by
  simp only [pinIndexOk, Bool.and_eq_true, decide_eq_true_eq]
  constructor
  · rintro ⟨h0, h1⟩; exact ⟨i.toNat, by omega, by omega⟩
  · rintro ⟨k, rfl, hk⟩; exact ⟨by omega, by omega⟩

/-- A read selector of a mapped offset. -/
theorem decode_read (c : DecodeContext) (r : Reg) :
    decode c (.bus (BitVec.ofNat 11 (regOffset r).toNat) none) = .ok (decodeRead c (regOffset r)) := by
  rw [← busSelector_regOffset.1]; simp [decode]

/-- A write selector of a mapped offset. -/
theorem decode_write (c : DecodeContext) (r : Reg) (w : Word) :
    decode c (.bus (BitVec.ofNat 11 (0x400 + (regOffset r).toNat)) (some w)) =
      .ok (decodeWrite c (regOffset r) w) := by
  rw [← busSelector_regOffset.2]; simp [decode]

end Sys2Proof
end

