-- ==== Sys2Proof/Laws/Resolve.lean ====
section
/-!
SUPPORT. What one resolution pass does, said once: resolvePins_onePass. Later proofs cite it and never unfold the loop.
-/
namespace Sys2Proof.Machine

/-- The level of a pin depends on five fields only (42_resolve.md R161). -/
theorem pinLevel_congr {s t : State} (hm : t.moder = s.moder) (hp : t.pupdr = s.pupdr) (ho : t.odr = s.odr)
    (hl : t.externalLevel = s.externalLevel) (hd : t.externalDriven = s.externalDriven) (i : Nat) :
    pinLevel t i = pinLevel s i := by
  simp [pinLevel, modeOf, pullOf, hm, hp, ho, hl, hd]

/-- One pin of the pass: what it writes and what it emits. -/
theorem resolvePin_eq (s : State) (i : Nat) :
    resolvePin s i =
      { s with
        idr := setBit s.idr i (pinLevel s i)
        pinChangedLevel :=
          if isNotified s i then setBit s.pinChangedLevel i (pinLevel s i) else s.pinChangedLevel
        events := s.events ++ pinEvents s i } := by
  have hm : ∀ b, modeOf (setIdrBit i b (reportShort i s)) i = modeOf s i := by
    intro b; simp only [reportShort]; split <;> rfl
  simp only [resolvePin, notifyChange, hm, isNotified, pinEvents, Bool.and_eq_true, decide_eq_true_eq]
  by_cases hs : isShorted s i = true <;>
    by_cases hn : pinLevel s i ≠ s.idr.getLsbD i ∧ modeOf s i = .input <;>
    simp [reportShort, hs, hn, setPinChanged, emit, setIdrBit]

/-- The loop over the first n pins: IDR and the pin-changed lines bit by bit, the events in ascending order, nothing
else. -/
theorem resolveFirst_spec (s : State) (n : Nat) (hn : n ≤ 16) :
    (∀ j, (resolveFirst n s).idr.getLsbD j = if j < n then pinLevel s j else s.idr.getLsbD j) ∧
    (∀ j, (resolveFirst n s).pinChangedLevel.getLsbD j =
      if j < n ∧ isNotified s j = true then pinLevel s j else s.pinChangedLevel.getLsbD j) ∧
    resolveFirst n s =
      { s with
        idr := (resolveFirst n s).idr, pinChangedLevel := (resolveFirst n s).pinChangedLevel
        events := s.events ++ (List.range n).flatMap (pinEvents s) } := by
  induction n with
  | zero => simp [resolveFirst]
  | succ k ih =>
    obtain ⟨hi, hp, he⟩ := ih (by omega)
    generalize hu : resolveFirst k s = u at hi hp he
    have hstep : resolveFirst (k + 1) s = resolvePin u k := by rw [← hu]; rfl
    have hlevel : ∀ j, pinLevel u j = pinLevel s j := by intro j; rw [he]; rfl
    have hmode : ∀ j, modeOf u j = modeOf s j := by intro j; rw [he]; rfl
    have hshort : isShorted u k = isShorted s k := by rw [he]; rfl
    have hnot : isNotified u k = isNotified s k := by simp [isNotified, hlevel, hmode, hi]
    have hev : pinEvents u k = pinEvents s k := by simp [pinEvents, hshort, hnot, hlevel]
    rw [hstep, resolvePin_eq, hlevel, hnot, hev]
    refine ⟨fun j => ?_, fun j => ?_, ?_⟩
    · simp only [getLsbD_setBit, hi]
      rcases Nat.lt_trichotomy j k with h | h | h
      · simp [h, Nat.ne_of_gt h, Nat.lt_succ_of_lt h]
      · subst h; have : j < 32 := by omega
        simp [this]
      · simp [Nat.ne_of_lt h, Nat.not_lt_of_gt h, show ¬ j < k + 1 by omega]
    · by_cases hN : isNotified s k = true
      · simp only [hN, if_true, getLsbD_setBit, hp]
        rcases Nat.lt_trichotomy j k with h | h | h
        · simp [h, Nat.ne_of_gt h, Nat.lt_succ_of_lt h]
        · subst h; have : j < 16 := by omega
          simp [this, hN]
        · simp [Nat.ne_of_lt h, Nat.not_lt_of_gt h, show ¬ j < k + 1 by omega]
      · have hj := hp j
        rcases Nat.lt_trichotomy j k with h | h | h
        · simp [hN, hj, h, Nat.lt_succ_of_lt h]
        · subst h; simp [hN, hj]
        · simp [hN, hj, Nat.not_lt_of_gt h, show ¬ j < k + 1 by omega]
    · rw [he]
      simp [List.range_succ, List.flatMap_append]

/-- The pulse: two events, and the line low again. -/
theorem pulse_eq (s : State) :
    pulse s = { s with stateChangedLevel := false, events := s.events ++ pulseEvents } := by
  simp [pulse, emit, setStateChanged, pulseEvents]

/-- What a resolution pass does (42_resolve.md R160, R168): everything, once. -/
theorem resolvePins_onePass (s : State) : OnePass s (resolvePins s) := by
  obtain ⟨hi, hp, he⟩ := resolveFirst_spec s s.cfg.pinCount.val (by omega)
  unfold OnePass resolvePins
  rw [pulse_eq]
  refine ⟨hi, hp, ?_⟩
  rw [he]
  simp [passEvents]

end Sys2Proof.Machine
end

