-- ==== Sys2Proof/Laws/Exec.lean ====
section
/-!
SUPPORT. One lemma per shared operation of the meanings (the gate of a read, the shape of a write, a pin-input event,
the fetch), the consequences of a pass, and what any row can do (exec_next_cases): later proofs cite these.
-/
namespace Sys2Proof.Machine

variable {s t u : State}

/-! ## Bus operations and pin events -/

theorem busRead_enabled (h : s.peripheralEnabled = true) (o : Offset) (f : State → State) :
    busRead o f s = .next (f (startOperation s)) := by simp [busRead, h]

theorem busRead_disabled (h : s.peripheralEnabled = false) (o : Offset) (f : State → State) :
    busRead o f s = .next { s with rdata := some 0, events := [.diag (.disabled o)] } := by
  simp [busRead, h, disabledRead, returnData, emit, startOperation]

theorem busWrite_enabled (h : s.peripheralEnabled = true) (o : Offset) (f : State → State) :
    ∃ t, busWrite o f s = .next t ∧ OnePass (f (startOperation s)) t :=
  ⟨_, by simp [busWrite, h], resolvePins_onePass _⟩

theorem busWrite_disabled (h : s.peripheralEnabled = false) (o : Offset) (f : State → State) :
    busWrite o f s = .next { s with rdata := none, events := [.diag (.disabled o)] } := by
  simp [busWrite, h, disabledWrite, emit, startOperation]

theorem pinEvent_inRange {i : Nat} (h : i < s.cfg.pinCount.val) (f : State → State) :
    ∃ t, pinEvent i f s = .next t ∧ OnePass (f (startOperation s)) t :=
  ⟨_, by simp [pinEvent, h], resolvePins_onePass _⟩

theorem pinEvent_outOfRange {i : Nat} (h : s.cfg.pinCount.val ≤ i) (f : State → State) :
    pinEvent i f s = .refused (.pinIndex i) := by simp [pinEvent, Nat.not_lt.mpr h]

/-! ## The fetch -/

theorem deliverable_toNat (o : Offset) : deliverable 4 (o.toNat : Int) = true := by
  have := o.isLt
  simp only [deliverable, Bool.and_eq_true, decide_eq_true_eq]
  refine ⟨⟨trivial, by omega⟩, by omega⟩

/-- The fetch of a delivered read is the read decode of its offset. -/
theorem fetch_busRead (s : State) (o : Offset) :
    fetch s (.busRead 4 o.toNat) = .ok (decodeRead (decodeContext s) o) := by
  simp [fetch, encodingOf, deliverable_toNat, decode]

/-- The fetch of a delivered write is the write decode of its offset. -/
theorem fetch_busWrite (s : State) (o : Offset) (w : Word) :
    fetch s (.busWrite 4 o.toNat w) = .ok (decodeWrite (decodeContext s) o w) := by
  simp [fetch, encodingOf, deliverable_toNat, decode]

theorem fetch_busRead_undeliverable {size : Nat} {offset : Int} (h : deliverable size offset = false) :
    fetch s (.busRead size offset) = .error (.access size offset) := by
  simp [fetch, encodingOf, h, refusalOf]

theorem fetch_busWrite_undeliverable {size : Nat} {offset : Int} (h : deliverable size offset = false) (w : Word) :
    fetch s (.busWrite size offset w) = .error (.access size offset) := by
  simp [fetch, encodingOf, h, refusalOf]

/-- A delivered access names a 10-bit offset. -/
theorem exists_offset_of_deliverable {size : Nat} {offset : Int} (h : deliverable size offset = true) :
    size = 4 ∧ ∃ o : Offset, offset = o.toNat :=
  ⟨by simp only [deliverable, Bool.and_eq_true, decide_eq_true_eq] at h; exact h.1.1,
    BitVec.ofInt 10 offset, (toNat_ofInt_of_deliverable h).symm⟩

/-- The fetch of a reset-line operation by the new and the tracked level. -/
theorem fetch_lineReset (s : State) (v : Int) :
    fetch s (.lineReset v) = .ok
      (if lineLevel v = s.resetAsserted then .resetHold s.resetAsserted
       else if s.resetAsserted then .resetDeassert else .resetAssert) := by
  have h : ∀ a b : Bool, decodeReset (lineSelector a b) =
      (if a = b then .resetHold b else if b then .resetDeassert else .resetAssert) := by decide
  simp only [fetch, encodingOf, decode, h]; rfl

/-- The fetch of an enable-line operation by the new and the tracked level. -/
theorem fetch_lineEnable (s : State) (v : Int) :
    fetch s (.lineEnable v) = .ok
      (if lineLevel v = s.peripheralEnabled then .enableHold s.peripheralEnabled
       else .enableChange (!s.peripheralEnabled)) := by
  have h : ∀ a b : Bool, decodeEnable (lineSelector a b) =
      (if a = b then .enableHold b else .enableChange (!b)) := by decide
  simp only [fetch, encodingOf, decode, h]; rfl

/-- The fetch of a pin-input operation: the index first, then the sign of the value. -/
theorem fetch_linePin (s : State) (i v : Int) :
    fetch s (.linePin i v) = .ok
      (if pinIndexOk s.cfg.pinCount.val i then
        (if v < 0 then .pinFloat i.toNat else if v = 0 then .pinLow i.toNat else .pinHigh i.toNat)
       else .pinBadindex i (pinClass v)) := by
  by_cases hi : pinIndexOk s.cfg.pinCount.val i = true
  · rcases pinClass_cases v with ⟨hv, hc⟩ | ⟨hv, hc⟩ | ⟨hv, hc⟩
    · simp [fetch, encodingOf, decode, decodePin, decodeContext, hi, hc, hv]
    · subst hv; simp [fetch, encodingOf, decode, decodePin, decodeContext, hi, hc]
    · simp [fetch, encodingOf, decode, decodePin, decodeContext, hi, hc, Int.not_lt.mpr hv.le, hv.ne']
  · simp [fetch, encodingOf, decode, decodePin, decodeContext, hi]

/-! ## Consequences of a pass -/

/-- A pass keeps every field but IDR, the lines and the events. -/
theorem OnePass.frame (h : OnePass u t) :
    t.cfg = u.cfg ∧ t.moder = u.moder ∧ t.otyper = u.otyper ∧ t.ospeedr = u.ospeedr ∧ t.pupdr = u.pupdr ∧
    t.odr = u.odr ∧ t.lckr = u.lckr ∧ t.afrl = u.afrl ∧ t.afrh = u.afrh ∧ t.externalLevel = u.externalLevel ∧
    t.externalDriven = u.externalDriven ∧ t.resetAsserted = u.resetAsserted ∧
    t.peripheralEnabled = u.peripheralEnabled ∧ t.stateChangedLevel = false ∧ t.pending = u.pending ∧
    t.rdata = u.rdata ∧ t.events = u.events ++ passEvents u := by
  obtain ⟨-, -, h⟩ := h
  rw [h]
  simp

/-- A pass changes no level's inputs, so the levels after it are those it resolved. -/
theorem OnePass.pinLevel_eq (h : OnePass u t) (i : Nat) : pinLevel t i = pinLevel u i := by
  rw [h.2.2]; rfl

theorem OnePass.modeOf_eq (h : OnePass u t) (i : Nat) : modeOf t i = modeOf u i := by
  rw [h.2.2]; rfl

theorem OnePass.isShorted_eq (h : OnePass u t) (i : Nat) : isShorted t i = isShorted u i := by
  rw [h.2.2]; rfl

/-- INV-IDR holds after a pass, from whatever state (42_resolve.md R169). -/
theorem OnePass.levelsHold (h : OnePass u t) : LevelsHold t := by
  intro i hi
  rw [h.frame.1] at hi
  rw [h.pinLevel_eq, h.1 i, if_pos hi]

/-- Where the levels hold already, a pass notifies nobody, and IDR and the lines stay. -/
theorem OnePass.of_levelsHold (h : OnePass u t) (hl : LevelsHold u) :
    t.idr = u.idr ∧ t.pinChangedLevel = u.pinChangedLevel := by
  constructor
  · apply BitVec.eq_of_getLsbD_eq
    intro i _
    rw [h.1 i]
    split
    · rename_i hi; exact (hl i hi).symm
    · rfl
  · apply BitVec.eq_of_getLsbD_eq
    intro i _
    rw [h.2.1 i]
    split
    · rename_i hi
      have := hl i hi.1
      simp [isNotified, this] at hi
    · rfl

/-- What the events of one pass are, by membership. -/
theorem mem_passEvents (s : State) (e : Event) :
    e ∈ passEvents s ↔
      (∃ i, i < s.cfg.pinCount.val ∧ isShorted s i = true ∧ e = .diag (.short i)) ∨
      (∃ i, i < s.cfg.pinCount.val ∧ isNotified s i = true ∧ e = .pinChanged i (pinLevel s i)) ∨
      e = .stateChangedRise ∨ e = .stateChangedFall := by
  simp only [passEvents, pulseEvents, pinEvents, List.mem_append, List.mem_flatMap, List.mem_range,
    List.mem_cons, List.not_mem_nil, or_false]
  constructor
  · rintro (⟨i, hi, he⟩ | he)
    · rcases he with he | he
      · split at he
        · rename_i hs; exact .inl ⟨i, hi, hs, by simpa using he⟩
        · simp at he
      · split at he
        · rename_i hn; exact .inr (.inl ⟨i, hi, hn, by simpa using he⟩)
        · simp at he
    · exact .inr (.inr he)
  · rintro (⟨i, hi, hs, rfl⟩ | ⟨i, hi, hn, rfl⟩ | he)
    · exact .inl ⟨i, hi, .inl (by simp [hs])⟩
    · exact .inl ⟨i, hi, .inr (by simp [hn])⟩
    · exact .inr he

/-! ## The invariant on a state written out -/

/-- The invariant, checked bit by bit: only the first 16 pins have inputs, only the first 32 bits exist. -/
theorem portInv_of_bits (hl : ∀ i : Fin 16, i.val < s.cfg.pinCount.val → s.idr.getLsbD i.val = pinLevel s i.val)
    (hi : ∀ i : Fin 32, s.cfg.pinCount.val ≤ i.val → s.idr.getLsbD i.val = false)
    (hx : ∀ i : Fin 16, s.cfg.pinCount.val ≤ i.val → s.externalLevel.getLsbD i.val = false ∧
      s.externalDriven.getLsbD i.val = false ∧ s.pinChangedLevel.getLsbD i.val = false)
    (hr : s.stateChangedLevel = false) : PortInv s := by
  have hx' : ∀ i, s.cfg.pinCount.val ≤ i → s.externalLevel.getLsbD i = false ∧
      s.externalDriven.getLsbD i = false ∧ s.pinChangedLevel.getLsbD i = false := by
    intro i hi
    by_cases h : i < 16
    · exact hx ⟨i, h⟩ hi
    · refine ⟨?_, ?_, ?_⟩ <;> exact BitVec.getLsbD_of_ge _ _ (by omega)
  refine ⟨fun i h => hl ⟨i, by omega⟩ h, fun i h => ⟨?_, (hx' i h).1, (hx' i h).2.1⟩, fun i h => (hx' i h).2.2, hr⟩
  by_cases h32 : i < 32
  · exact hi ⟨i, h32⟩ h
  · exact BitVec.getLsbD_of_ge _ _ (by omega)

/-! ## What any row can do -/

/-- The state a row hands to the pass: s with registers, control flags or pin i's external drive written, IDR kept or
zeroed, the outputs started anew with at most one diagnostic of the row's own. -/
structure Prepared (s u : State) : Prop where
  cfg        : u.cfg = s.cfg
  pending    : u.pending = s.pending
  idr        : u.idr = s.idr ∨ u.idr = 0
  lines      : u.pinChangedLevel = s.pinChangedLevel ∧ u.stateChangedLevel = s.stateChangedLevel
  levelHigh  : ∀ j, s.cfg.pinCount.val ≤ j → u.externalLevel.getLsbD j = s.externalLevel.getLsbD j
  drivenHigh : ∀ j, s.cfg.pinCount.val ≤ j → u.externalDriven.getLsbD j = s.externalDriven.getLsbD j
  rdata      : u.rdata = none
  events     : u.events = [] ∨ ∃ o, u.events = [.diag (.badOffset o)] ∨ u.events = [.diag (.readOnly o)]

/-- A write's effect that touches one register prepares the pass. -/
theorem exec_next_cases_write {o : Offset} {f : State → State} (h : busWrite o f s = .next t)
    (hf : Prepared s (f (startOperation s))) :
    (t = { s with rdata := t.rdata, events := t.events }) ∨ ∃ u, Prepared s u ∧ OnePass u t := by
  rcases Bool.eq_false_or_eq_true s.peripheralEnabled with he | he
  · obtain ⟨t', h1, h2⟩ := busWrite_enabled he o f
    rw [h] at h1
    obtain rfl := Host.Outcome.next.inj h1
    exact .inr ⟨_, hf, h2⟩
  · rw [busWrite_disabled he] at h
    obtain rfl := Host.Outcome.next.inj h
    exact .inl rfl

theorem exec_next_cases_pin {i : Nat} {f : State → State} (h : pinEvent i f s = .next t)
    (hf : i < s.cfg.pinCount.val → Prepared s (f (startOperation s))) :
    (t = { s with rdata := t.rdata, events := t.events }) ∨ ∃ u, Prepared s u ∧ OnePass u t := by
  by_cases hi : i < s.cfg.pinCount.val
  · obtain ⟨t', h1, h2⟩ := pinEvent_inRange hi f
    rw [h] at h1
    obtain rfl := Host.Outcome.next.inj h1
    exact .inr ⟨_, hf hi, h2⟩
  · rw [pinEvent_outOfRange (Nat.le_of_not_lt hi)] at h
    cases h

theorem exec_next_cases_read {o : Offset} {f : State → State} (h : busRead o f s = .next t)
    (hf : f (startOperation s) =
      { s with rdata := (f (startOperation s)).rdata, events := (f (startOperation s)).events }) : t = { s with rdata := t.rdata, events := t.events } := by
  rcases Bool.eq_false_or_eq_true s.peripheralEnabled with he | he
  · rw [busRead_enabled he] at h
    obtain rfl := Host.Outcome.next.inj h
    exact hf
  · rw [busRead_disabled he] at h
    obtain rfl := Host.Outcome.next.inj h
    rfl

/-- The effect at 0x028 prepares the pass on every family. -/
theorem prepared_writeBrrOffset (w : Word) : Prepared s (writeBrrOffset w (startOperation s)) := by
  unfold writeBrrOffset
  split
  · exact ⟨rfl, rfl, .inl rfl, ⟨rfl, rfl⟩, fun _ _ => rfl, fun _ _ => rfl, rfl, .inr ⟨_, .inl rfl⟩⟩
  · exact ⟨rfl, rfl, .inl rfl, ⟨rfl, rfl⟩, fun _ _ => rfl, fun _ _ => rfl, rfl, .inl rfl⟩

/-- Whatever row runs, either only the outputs change, or a prepared state is resolved by one pass. -/
theorem exec_next_cases {i : Instr} (h : exec i s = .next t) :
    (t = { s with rdata := t.rdata, events := t.events }) ∨ ∃ u, Prepared s u ∧ OnePass u t := by
  have hold : ∀ {t}, Host.Outcome.next (holdLine s) = (.next t : Host.Outcome State Fault Refusal) →
      t = { s with rdata := t.rdata, events := t.events } := by
    intro t h; obtain rfl := Host.Outcome.next.inj h; rfl
  have pass : ∀ {u t}, Host.Outcome.next (resolvePins u) = (.next t : Host.Outcome State Fault Refusal) →
      Prepared s u → ∃ u, Prepared s u ∧ OnePass u t := by
    intro u t h hu; obtain rfl := Host.Outcome.next.inj h; exact ⟨u, hu, resolvePins_onePass u⟩
  have high : ∀ {n k j : Nat} (v : BitVec n) (b : Bool), k < s.cfg.pinCount.val → s.cfg.pinCount.val ≤ j →
      (setBit v k b).getLsbD j = v.getLsbD j := by
    intro n k j v b hk hj; rw [getLsbD_setBit, if_neg (by omega)]
  cases i with
  | rdDisabled o => left; obtain rfl := Host.Outcome.next.inj h; rfl
  | rdModer => exact .inl (exec_next_cases_read h rfl)
  | rdOtyper => exact .inl (exec_next_cases_read h rfl)
  | rdOspeedr => exact .inl (exec_next_cases_read h rfl)
  | rdPupdr => exact .inl (exec_next_cases_read h rfl)
  | rdIdr => exact .inl (exec_next_cases_read h rfl)
  | rdOdr => exact .inl (exec_next_cases_read h rfl)
  | rdBsrr => exact .inl (exec_next_cases_read h rfl)
  | rdLckr => exact .inl (exec_next_cases_read h rfl)
  | rdAfrl => exact .inl (exec_next_cases_read h rfl)
  | rdAfrh => exact .inl (exec_next_cases_read h rfl)
  | rdBrr => exact .inl (exec_next_cases_read h (by unfold readBrrOffset; split <;> rfl))
  | rdBrrF4 => exact .inl (exec_next_cases_read h (by unfold readBrrOffset; split <;> rfl))
  | rdBad o => exact .inl (exec_next_cases_read h rfl)
  | wrDisabled o w => left; obtain rfl := Host.Outcome.next.inj h; rfl
  | wrModer w =>
    simp only [exec, execWrModer] at h
    exact exec_next_cases_write h ⟨rfl, rfl, .inl rfl, ⟨rfl, rfl⟩, fun _ _ => rfl, fun _ _ => rfl, rfl, .inl rfl⟩
  | wrOtyper w =>
    simp only [exec, execWrOtyper] at h
    exact exec_next_cases_write h ⟨rfl, rfl, .inl rfl, ⟨rfl, rfl⟩, fun _ _ => rfl, fun _ _ => rfl, rfl, .inl rfl⟩
  | wrOspeedr w =>
    simp only [exec, execWrOspeedr] at h
    exact exec_next_cases_write h ⟨rfl, rfl, .inl rfl, ⟨rfl, rfl⟩, fun _ _ => rfl, fun _ _ => rfl, rfl, .inl rfl⟩
  | wrPupdr w =>
    simp only [exec, execWrPupdr] at h
    exact exec_next_cases_write h ⟨rfl, rfl, .inl rfl, ⟨rfl, rfl⟩, fun _ _ => rfl, fun _ _ => rfl, rfl, .inl rfl⟩
  | wrIdr w =>
    simp only [exec, execWrIdr] at h
    exact exec_next_cases_write h ⟨rfl, rfl, .inl rfl, ⟨rfl, rfl⟩, fun _ _ => rfl, fun _ _ => rfl, rfl, .inr ⟨_, .inr rfl⟩⟩
  | wrOdr w =>
    simp only [exec, execWrOdr] at h
    exact exec_next_cases_write h ⟨rfl, rfl, .inl rfl, ⟨rfl, rfl⟩, fun _ _ => rfl, fun _ _ => rfl, rfl, .inl rfl⟩
  | wrBsrr w =>
    simp only [exec, execWrBsrr] at h
    exact exec_next_cases_write h ⟨rfl, rfl, .inl rfl, ⟨rfl, rfl⟩, fun _ _ => rfl, fun _ _ => rfl, rfl, .inl rfl⟩
  | wrLckr w =>
    simp only [exec, execWrLckr] at h
    exact exec_next_cases_write h ⟨rfl, rfl, .inl rfl, ⟨rfl, rfl⟩, fun _ _ => rfl, fun _ _ => rfl, rfl, .inl rfl⟩
  | wrAfrl w =>
    simp only [exec, execWrAfrl] at h
    exact exec_next_cases_write h ⟨rfl, rfl, .inl rfl, ⟨rfl, rfl⟩, fun _ _ => rfl, fun _ _ => rfl, rfl, .inl rfl⟩
  | wrAfrh w =>
    simp only [exec, execWrAfrh] at h
    exact exec_next_cases_write h ⟨rfl, rfl, .inl rfl, ⟨rfl, rfl⟩, fun _ _ => rfl, fun _ _ => rfl, rfl, .inl rfl⟩
  | wrBrr w =>
    simp only [exec, execWrBrr] at h
    exact exec_next_cases_write h (prepared_writeBrrOffset w)
  | wrBrrF4 w =>
    simp only [exec, execWrBrrF4] at h
    exact exec_next_cases_write h (prepared_writeBrrOffset w)
  | wrBad o w =>
    simp only [exec, execWrBad] at h
    exact exec_next_cases_write h ⟨rfl, rfl, .inl rfl, ⟨rfl, rfl⟩, fun _ _ => rfl, fun _ _ => rfl, rfl, .inr ⟨_, .inl rfl⟩⟩
  | resetAssert =>
    simp only [exec, execResetAssert, assertReset] at h
    split at h
    · exact .inl (hold h)
    · exact .inr (pass h ⟨rfl, rfl, .inr rfl, ⟨rfl, rfl⟩, fun _ _ => rfl, fun _ _ => rfl, rfl, .inl rfl⟩)
  | resetDeassert =>
    simp only [exec, execResetDeassert, releaseReset] at h
    split at h
    · exact .inr (pass h ⟨rfl, rfl, .inl rfl, ⟨rfl, rfl⟩, fun _ _ => rfl, fun _ _ => rfl, rfl, .inl rfl⟩)
    · exact .inl (hold h)
  | resetHold level => exact .inl (hold h)
  | enableChange level =>
    simp only [exec, execEnableChange] at h
    split at h
    · exact .inl (hold h)
    · exact .inr (pass h ⟨rfl, rfl, .inl rfl, ⟨rfl, rfl⟩, fun _ _ => rfl, fun _ _ => rfl, rfl, .inl rfl⟩)
  | enableHold level => exact .inl (hold h)
  | pinBadindex k cls => cases h
  | pinFloat k =>
    simp only [exec, execPinFloat] at h
    exact exec_next_cases_pin h (fun hk => ⟨rfl, rfl, .inl rfl, ⟨rfl, rfl⟩, fun _ _ => rfl, fun _ hj => high _ _ hk hj, rfl, .inl rfl⟩)
  | pinLow k =>
    simp only [exec, execPinLow] at h
    exact exec_next_cases_pin h (fun hk => ⟨rfl, rfl, .inl rfl, ⟨rfl, rfl⟩, fun _ hj => high _ _ hk hj, fun _ hj => high _ _ hk hj, rfl, .inl rfl⟩)
  | pinHigh k =>
    simp only [exec, execPinHigh] at h
    exact exec_next_cases_pin h (fun hk => ⟨rfl, rfl, .inl rfl, ⟨rfl, rfl⟩, fun _ hj => high _ _ hk hj, fun _ hj => high _ _ hk hj, rfl, .inl rfl⟩)
  | resolve =>
    simp only [exec, execResolve] at h
    exact .inr (pass h ⟨rfl, rfl, .inl rfl, ⟨rfl, rfl⟩, fun _ _ => rfl, fun _ _ => rfl, rfl, .inl rfl⟩)

end Sys2Proof.Machine
end

