-- ==== Sys2Proof/Laws/PerInstr.lean ====
section
/-!
SUPPORT. Statements for all instructions, one lemma per constructor. RoundTrip: in every context in which the row's
condition holds, the encoded form of a well-formed row decodes to that row.
-/
namespace Sys2Proof.Laws.RoundTrip

/-- The encoded form of i, where it has one, decodes to i wherever R105 can select it. -/
def Statement (i : Instr) : Prop :=
  ∀ (c : DecodeContext) (e : Encoding),
    WellFormed i = true → rowCondition c i = true → encode i = some e → decode c e = .ok i

theorem rdDisabled (o : Offset) : Statement (.rdDisabled o) := by
  intro c e hw hc he
  obtain rfl := Option.some.inj he
  simp only [rowCondition, Bool.not_eq_true'] at hc
  simp [decode, decodeRead, hc]

theorem rdModer : Statement .rdModer := by
  intro c e hw hc he
  obtain rfl := Option.some.inj he
  have h : c.enabled = true := hc
  refine (decode_read c .moder).trans ?_
  simp [decodeRead, h]

theorem rdOtyper : Statement .rdOtyper := by
  intro c e hw hc he
  obtain rfl := Option.some.inj he
  have h : c.enabled = true := hc
  refine (decode_read c .otyper).trans ?_
  simp [decodeRead, h]

theorem rdOspeedr : Statement .rdOspeedr := by
  intro c e hw hc he
  obtain rfl := Option.some.inj he
  have h : c.enabled = true := hc
  refine (decode_read c .ospeedr).trans ?_
  simp [decodeRead, h]

theorem rdPupdr : Statement .rdPupdr := by
  intro c e hw hc he
  obtain rfl := Option.some.inj he
  have h : c.enabled = true := hc
  refine (decode_read c .pupdr).trans ?_
  simp [decodeRead, h]

theorem rdIdr : Statement .rdIdr := by
  intro c e hw hc he
  obtain rfl := Option.some.inj he
  have h : c.enabled = true := hc
  refine (decode_read c .idr).trans ?_
  simp [decodeRead, h]

theorem rdOdr : Statement .rdOdr := by
  intro c e hw hc he
  obtain rfl := Option.some.inj he
  have h : c.enabled = true := hc
  refine (decode_read c .odr).trans ?_
  simp [decodeRead, h]

theorem rdBsrr : Statement .rdBsrr := by
  intro c e hw hc he
  obtain rfl := Option.some.inj he
  have h : c.enabled = true := hc
  refine (decode_read c .bsrr).trans ?_
  simp [decodeRead, h]

theorem rdLckr : Statement .rdLckr := by
  intro c e hw hc he
  obtain rfl := Option.some.inj he
  have h : c.enabled = true := hc
  refine (decode_read c .lckr).trans ?_
  simp [decodeRead, h]

theorem rdAfrl : Statement .rdAfrl := by
  intro c e hw hc he
  obtain rfl := Option.some.inj he
  have h : c.enabled = true := hc
  refine (decode_read c .afrl).trans ?_
  simp [decodeRead, h]

theorem rdAfrh : Statement .rdAfrh := by
  intro c e hw hc he
  obtain rfl := Option.some.inj he
  have h : c.enabled = true := hc
  refine (decode_read c .afrh).trans ?_
  simp [decodeRead, h]

theorem rdBrr : Statement .rdBrr := by
  intro c e hw hc he
  obtain rfl := Option.some.inj he
  simp only [rowCondition, Bool.and_eq_true, decide_eq_true_eq] at hc
  refine (decode_read c .brr).trans ?_
  simp [decodeRead, hc.1, hc.2]

theorem rdBrrF4 : Statement .rdBrrF4 := by
  intro c e hw hc he
  obtain rfl := Option.some.inj he
  simp only [rowCondition, Bool.and_eq_true, decide_eq_true_eq] at hc
  refine (decode_read c .brr).trans ?_
  simp [decodeRead, hc.1, hc.2]

theorem rdBad (o : Offset) : Statement (.rdBad o) := by
  intro c e hw hc he
  obtain rfl := Option.some.inj he
  have h : c.enabled = true := hc
  have hn : regAt o = none := regAt_eq_none.mpr (by simpa [WellFormed] using hw)
  simp [decode, decodeRead, h, hn]

theorem wrDisabled (o : Offset) (w : Word) : Statement (.wrDisabled o w) := by
  intro c e hw hc he
  obtain rfl := Option.some.inj he
  simp only [rowCondition, Bool.not_eq_true'] at hc
  simp [decode, decodeWrite, hc]

theorem wrModer (w : Word) : Statement (.wrModer w) := by
  intro c e hw hc he
  obtain rfl := Option.some.inj he
  have h : c.enabled = true := hc
  refine (decode_write c .moder w).trans ?_
  simp [decodeWrite, h]

theorem wrOtyper (w : Word) : Statement (.wrOtyper w) := by
  intro c e hw hc he
  obtain rfl := Option.some.inj he
  have h : c.enabled = true := hc
  refine (decode_write c .otyper w).trans ?_
  simp [decodeWrite, h]

theorem wrOspeedr (w : Word) : Statement (.wrOspeedr w) := by
  intro c e hw hc he
  obtain rfl := Option.some.inj he
  have h : c.enabled = true := hc
  refine (decode_write c .ospeedr w).trans ?_
  simp [decodeWrite, h]

theorem wrPupdr (w : Word) : Statement (.wrPupdr w) := by
  intro c e hw hc he
  obtain rfl := Option.some.inj he
  have h : c.enabled = true := hc
  refine (decode_write c .pupdr w).trans ?_
  simp [decodeWrite, h]

theorem wrIdr (w : Word) : Statement (.wrIdr w) := by
  intro c e hw hc he
  obtain rfl := Option.some.inj he
  have h : c.enabled = true := hc
  refine (decode_write c .idr w).trans ?_
  simp [decodeWrite, h]

theorem wrOdr (w : Word) : Statement (.wrOdr w) := by
  intro c e hw hc he
  obtain rfl := Option.some.inj he
  have h : c.enabled = true := hc
  refine (decode_write c .odr w).trans ?_
  simp [decodeWrite, h]

theorem wrBsrr (w : Word) : Statement (.wrBsrr w) := by
  intro c e hw hc he
  obtain rfl := Option.some.inj he
  have h : c.enabled = true := hc
  refine (decode_write c .bsrr w).trans ?_
  simp [decodeWrite, h]

theorem wrLckr (w : Word) : Statement (.wrLckr w) := by
  intro c e hw hc he
  obtain rfl := Option.some.inj he
  have h : c.enabled = true := hc
  refine (decode_write c .lckr w).trans ?_
  simp [decodeWrite, h]

theorem wrAfrl (w : Word) : Statement (.wrAfrl w) := by
  intro c e hw hc he
  obtain rfl := Option.some.inj he
  have h : c.enabled = true := hc
  refine (decode_write c .afrl w).trans ?_
  simp [decodeWrite, h]

theorem wrAfrh (w : Word) : Statement (.wrAfrh w) := by
  intro c e hw hc he
  obtain rfl := Option.some.inj he
  have h : c.enabled = true := hc
  refine (decode_write c .afrh w).trans ?_
  simp [decodeWrite, h]

theorem wrBrr (w : Word) : Statement (.wrBrr w) := by
  intro c e hw hc he
  obtain rfl := Option.some.inj he
  simp only [rowCondition, Bool.and_eq_true, decide_eq_true_eq] at hc
  refine (decode_write c .brr w).trans ?_
  simp [decodeWrite, hc.1, hc.2]

theorem wrBrrF4 (w : Word) : Statement (.wrBrrF4 w) := by
  intro c e hw hc he
  obtain rfl := Option.some.inj he
  simp only [rowCondition, Bool.and_eq_true, decide_eq_true_eq] at hc
  refine (decode_write c .brr w).trans ?_
  simp [decodeWrite, hc.1, hc.2]

theorem wrBad (o : Offset) (w : Word) : Statement (.wrBad o w) := by
  intro c e hw hc he
  obtain rfl := Option.some.inj he
  have h : c.enabled = true := hc
  have hn : regAt o = none := regAt_eq_none.mpr (by simpa [WellFormed] using hw)
  simp [decode, decodeWrite, h, hn]

theorem resetAssert : Statement .resetAssert := by
  intro c e hw hc he
  obtain rfl := Option.some.inj he
  rfl

theorem resetDeassert : Statement .resetDeassert := by
  intro c e hw hc he
  obtain rfl := Option.some.inj he
  rfl

theorem resetHold (level : Bool) : Statement (.resetHold level) := by
  intro c e hw hc he
  obtain rfl := Option.some.inj he
  cases level <;> rfl

theorem enableChange (level : Bool) : Statement (.enableChange level) := by
  intro c e hw hc he
  obtain rfl := Option.some.inj he
  cases level <;> rfl

theorem enableHold (level : Bool) : Statement (.enableHold level) := by
  intro c e hw hc he
  obtain rfl := Option.some.inj he
  cases level <;> rfl

theorem pinBadindex (i : Int) (cls : BitVec 2) : Statement (.pinBadindex i cls) := by
  intro c e hw hc he
  obtain rfl := Option.some.inj he
  simp only [rowCondition, Bool.not_eq_true'] at hc
  simp [decode, decodePin, hc]

theorem pinFloat (i : Nat) : Statement (.pinFloat i) := by
  intro c e hw hc he
  obtain rfl := Option.some.inj he
  have h : pinIndexOk c.pinCount (i : Int) = true :=
    pinIndexOk_iff.mpr ⟨i, rfl, by simpa [rowCondition] using hc⟩
  simp [decode, decodePin, h]

theorem pinLow (i : Nat) : Statement (.pinLow i) := by
  intro c e hw hc he
  obtain rfl := Option.some.inj he
  have h : pinIndexOk c.pinCount (i : Int) = true :=
    pinIndexOk_iff.mpr ⟨i, rfl, by simpa [rowCondition] using hc⟩
  simp [decode, decodePin, h]

theorem pinHigh (i : Nat) : Statement (.pinHigh i) := by
  intro c e hw hc he
  obtain rfl := Option.some.inj he
  have h : pinIndexOk c.pinCount (i : Int) = true :=
    pinIndexOk_iff.mpr ⟨i, rfl, by simpa [rowCondition] using hc⟩
  simp [decode, decodePin, h]

theorem resolve : Statement .resolve := by
  intro c e hw hc he
  cases he

end Sys2Proof.Laws.RoundTrip
end

