-- ==== Sys2Proof/Tests/Slice0.lean ====
section
/-!
SUPPORT. Tests: ill-formed terms refused, words written out from 30_encoding.md, one step each on small states (the
expected results are the vectors of 95_test_vectors.md, named by their ids), and a witness for every statement of
Obligations.lean that has hypotheses.
-/
namespace Sys2Proof.Tests
open Sys2Proof.Machine

set_option Elab.async false

/-! ## Helpers -/

/-- A variant that is not F4, 16 pins. -/
def cfgOther : Config := { Config.standard with family := .other }

/-- The start state Z of 95_test_vectors.md for FAMILY = OTHER: all zero, enabled. -/
def z : State := State.construct cfgOther

/-- Z on F4, PORT = 2. -/
def zF4 : State := State.construct { Config.standard with port := 2 }

/-- The register state of 95_test_vectors.md section 2.1. -/
def regs : State :=
  { z with moder := 0x12345678, otyper := 0xDEAD00FF, ospeedr := 0x0F0F0F0F, pupdr := 0x00010001, idr := 0x00000109
           odr := 0xCAFE8009, lckr := 0x0001FFFF, afrl := 0x76543210, afrh := 0xFEDCBA98, pinChangedLevel := 0x0101 }

/-- The state before TS8: pin 0 pulled up, pin 1 OUTPUT shorted low, pin 5 driven high. -/
def dirty : State :=
  { z with moder := 0x00000004, pupdr := 0x00000001, odr := 0x00000002, lckr := 0x0001FFFF, afrl := 0x00000077
           idr := 0x00000021, externalDriven := 0x0022, externalLevel := 0x0020, pinChangedLevel := 0x0021 }

def off (s : State) : State := { s with peripheralEnabled := false }

/-- One presented operation, one step: the next state, where there is one. -/
def after (s : State) (op : Operation) : Option State :=
  match step { s with pending := [op] } with
  | .next t => some t
  | .fault _ => none
  | .refused _ => none

/-- One presented operation, one step: the refusal, where there is one. -/
def refusal (s : State) (op : Operation) : Option Refusal :=
  match step { s with pending := [op] } with
  | .next _ => none
  | .fault r => nomatch r
  | .refused r => some r

/-- What a bus master sees of one read: the value and the events. -/
def read (s : State) (o : Int) : Option (Option Word × List Event) :=
  (after s (.busRead 4 o)).map (fun t => (t.rdata, t.events))

/-- The events of one operation, and the state it leaves beside them. -/
def run (s : State) (op : Operation) : Option (List Event × State) :=
  (after s op).map (fun t => (t.events, { t with events := [] }))

/-- The events of one write, and the state it leaves beside them. -/
def write (s : State) (o : Int) (w : Word) : Option (List Event × State) := run s (.busWrite 4 o w)

/-- The encoded operation decoded in the context of a state. -/
def dec (s : State) (e : Encoding) : Option Instr :=
  match decode (decodeContext s) e with
  | .ok i => some i
  | .error _ => none

def rise : Event := .stateChangedRise
def fall : Event := .stateChangedFall

/-! ## WellFormed refuses -/

theorem test_wf_rdBad_mapped : WellFormed (.rdBad 0x000#10) = false ∧ WellFormed (.rdBad 0x028#10) = false := by
  decide
theorem test_wf_wrBad_mapped : WellFormed (.wrBad 0x014#10 0) = false ∧ WellFormed (.wrBad 0x028#10 0) = false := by
  decide
theorem test_wf_pinFloat_16 : WellFormed (.pinFloat 16) = false := by decide
theorem test_wf_pinLow_16 : WellFormed (.pinLow 16) = false := by decide
theorem test_wf_pinHigh_16 : WellFormed (.pinHigh 16) = false := by decide
theorem test_wf_accepts_bounds : WellFormed (.rdBad 0x02C#10) = true ∧ WellFormed (.wrBad 0x027#10 0) = true ∧
    WellFormed (.pinFloat 15) = true ∧ WellFormed (.pinLow 15) = true ∧ WellFormed (.pinHigh 15) = true := by decide
theorem test_config_wf : Config.wf { Config.standard with base := 0x40020000 } = true ∧
    Config.wf { Config.standard with base := 0x40020200 } = false := by decide

/-! ## Words written out bit by bit (30_encoding.md R105: bit 10 is w, bits 9 to 0 the offset) -/

theorem test_decode_rdDisabled : dec (off z) (.bus 0b01111111100#11 none) = some (.rdDisabled 0b1111111100#10) := by
  decide
theorem test_decode_rdModer : dec z (.bus 0b00000000000#11 none) = some .rdModer := by decide
theorem test_decode_rdOtyper : dec z (.bus 0b00000000100#11 none) = some .rdOtyper := by decide
theorem test_decode_rdOspeedr : dec z (.bus 0b00000001000#11 none) = some .rdOspeedr := by decide
theorem test_decode_rdPupdr : dec z (.bus 0b00000001100#11 none) = some .rdPupdr := by decide
theorem test_decode_rdIdr : dec z (.bus 0b00000010000#11 none) = some .rdIdr := by decide
theorem test_decode_rdOdr : dec z (.bus 0b00000010100#11 none) = some .rdOdr := by decide
theorem test_decode_rdBsrr : dec z (.bus 0b00000011000#11 none) = some .rdBsrr := by decide
theorem test_decode_rdLckr : dec z (.bus 0b00000011100#11 none) = some .rdLckr := by decide
theorem test_decode_rdAfrl : dec z (.bus 0b00000100000#11 none) = some .rdAfrl := by decide
theorem test_decode_rdAfrh : dec z (.bus 0b00000100100#11 none) = some .rdAfrh := by decide
theorem test_decode_rdBrr : dec z (.bus 0b00000101000#11 none) = some .rdBrr := by decide
theorem test_decode_rdBrrF4 : dec zF4 (.bus 0b00000101000#11 none) = some .rdBrrF4 := by decide
theorem test_decode_rdBad : dec z (.bus 0b00000101100#11 none) = some (.rdBad 0b0000101100#10) := by decide
theorem test_decode_wrDisabled : 
    dec (off z) (.bus 0b10000000000#11 (some 7)) = some (.wrDisabled 0b0000000000#10 7) := by decide
theorem test_decode_wrModer : dec z (.bus 0b10000000000#11 (some 7)) = some (.wrModer 7) := by decide
theorem test_decode_wrOtyper : dec z (.bus 0b10000000100#11 (some 7)) = some (.wrOtyper 7) := by decide
theorem test_decode_wrOspeedr : dec z (.bus 0b10000001000#11 (some 7)) = some (.wrOspeedr 7) := by decide
theorem test_decode_wrPupdr : dec z (.bus 0b10000001100#11 (some 7)) = some (.wrPupdr 7) := by decide
theorem test_decode_wrIdr : dec z (.bus 0b10000010000#11 (some 7)) = some (.wrIdr 7) := by decide
theorem test_decode_wrOdr : dec z (.bus 0b10000010100#11 (some 7)) = some (.wrOdr 7) := by decide
theorem test_decode_wrBsrr : dec z (.bus 0b10000011000#11 (some 7)) = some (.wrBsrr 7) := by decide
theorem test_decode_wrLckr : dec z (.bus 0b10000011100#11 (some 7)) = some (.wrLckr 7) := by decide
theorem test_decode_wrAfrl : dec z (.bus 0b10000100000#11 (some 7)) = some (.wrAfrl 7) := by decide
theorem test_decode_wrAfrh : dec z (.bus 0b10000100100#11 (some 7)) = some (.wrAfrh 7) := by decide
theorem test_decode_wrBrr : dec z (.bus 0b10000101000#11 (some 7)) = some (.wrBrr 7) := by decide
theorem test_decode_wrBrrF4 : dec zF4 (.bus 0b10000101000#11 (some 7)) = some (.wrBrrF4 7) := by decide
theorem test_decode_wrBad : dec z (.bus 0b10000010110#11 (some 7)) = some (.wrBad 0b0000010110#10 7) := by decide
theorem test_decode_resetAssert : dec z (.lineReset 0b10#2) = some .resetAssert := by decide
theorem test_decode_resetDeassert : dec z (.lineReset 0b01#2) = some .resetDeassert := by decide
theorem test_decode_resetHold : dec z (.lineReset 0b00#2) = some (.resetHold false) ∧
    dec z (.lineReset 0b11#2) = some (.resetHold true) := by decide
theorem test_decode_enableChange : dec z (.lineEnable 0b01#2) = some (.enableChange false) ∧
    dec z (.lineEnable 0b10#2) = some (.enableChange true) := by decide
theorem test_decode_enableHold : dec z (.lineEnable 0b00#2) = some (.enableHold false) ∧
    dec z (.lineEnable 0b11#2) = some (.enableHold true) := by decide
theorem test_decode_pinBadindex : dec z (.linePin 16 0b01#2) = some (.pinBadindex 16 0b01#2) ∧
    dec z (.linePin (-1) 0b10#2) = some (.pinBadindex (-1) 0b10#2) := by decide
theorem test_decode_pinFloat : dec z (.linePin 15 0b10#2) = some (.pinFloat 15) := by decide
theorem test_decode_pinLow : dec z (.linePin 0 0b00#2) = some (.pinLow 0) := by decide
theorem test_decode_pinHigh : dec z (.linePin 15 0b01#2) = some (.pinHigh 15) := by decide
theorem test_decode_resolve_never : encode .resolve = none := by decide
theorem test_decode_rejects : decode (decodeContext z) (.bus 0b10000000000#11 none) = .error .writeWithoutData ∧
    decode (decodeContext z) (.bus 0b00000000000#11 (some 7)) = .error .readWithData ∧
    decode (decodeContext z) (.linePin 3 0b11#2) = .error .pinClassUnused := by decide

/-! ## The host's placement of a table word -/

theorem test_table_words : decodeTableWord 16 0b00000000000 = some .rdModer ∧
    decodeTableWord 16 0b10000010100 = some (.wrOdr 0) ∧ decodeTableWord 8 0b10 = some .resetAssert ∧
    decodeTableWord 8 0b01 = some .resetDeassert ∧ decodeTableWord 8 0b00 = some (.pinLow 0) ∧
    decodeTableWord 8 0b11 = none := by decide
theorem test_placed_read_runs :
    (match step (State.reset.withFetchWord 16 0b00000000000) with
      | .next t => t.rdata | .fault _ => none | .refused _ => none) = some 0xA8000000 := by decide
theorem test_placed_deassert_runs :
    (match step (State.reset.withFetchWord 8 0b01) with
      | .next t => some (t.resetAsserted, t.events) | .fault _ => none | .refused _ => none) =
      some (false, [rise, fall]) :=
  by decide +kernel

/-! ## One step each: bus reads (TR1 to TR22) -/

theorem test_rdDisabled : read (off regs) 0x000 = some (some 0, [.diag (.disabled 0x000#10)]) ∧
    read (off regs) 0x3FC = some (some 0, [.diag (.disabled 0x3FC#10)]) := by decide
theorem test_rdModer : read regs 0x000 = some (some 0x12345678, []) := by decide
theorem test_rdOtyper : read regs 0x004 = some (some 0xDEAD00FF, []) := by decide
theorem test_rdOspeedr : read regs 0x008 = some (some 0x0F0F0F0F, []) := by decide
theorem test_rdPupdr : read regs 0x00C = some (some 0x00010001, []) := by decide
theorem test_rdIdr : read regs 0x010 = some (some 0x00000109, []) := by decide
theorem test_rdOdr : read regs 0x014 = some (some 0xCAFE8009, []) := by decide
theorem test_rdBsrr : read regs 0x018 = some (some 0, []) := by decide
theorem test_rdLckr : read regs 0x01C = some (some 0x0001FFFF, []) := by decide
theorem test_rdAfrl : read regs 0x020 = some (some 0x76543210, []) := by decide
theorem test_rdAfrh : read regs 0x024 = some (some 0xFEDCBA98, []) := by decide
theorem test_rdBrr : read regs 0x028 = some (some 0, []) := by decide
theorem test_rdBrrF4 : read zF4 0x028 = some (some 0, [.diag (.badOffset 0x028#10)]) := by decide
theorem test_rdBad : read regs 0x02C = some (some 0, [.diag (.badOffset 0x02C#10)]) ∧
    read regs 0x011 = some (some 0, [.diag (.badOffset 0x011#10)]) := by decide
theorem test_access_refused : refusal regs (.busRead 2 0x000) = some (.access 2 0x000) ∧
    refusal regs (.busWrite 4 0x400 0) = some (.access 4 0x400) := by decide

/-! ## One step each: bus writes (TW1 to TW37) -/

/-- TW34, TW36. -/
theorem test_wrDisabled : write (off z) 0x000 0xFFFFFFFF = some ([.diag (.disabled 0x000#10)], off z) ∧
    write (off z) 0x3FC 0 = some ([.diag (.disabled 0x3FC#10)], off z) := by decide
/-- TW3: the level falls and the new mode is INPUT. -/
theorem test_wrModer_falls : write { z with moder := 1, odr := 1, idr := 1 } 0x000 0 =
    some ([.pinChanged 0 false, rise, fall], { z with odr := 1 }) :=
  by decide +kernel
/-- TW4: the level falls silently, the line is stale. -/
theorem test_wrModer_stale : write { z with pupdr := 1, idr := 1, pinChangedLevel := 1 } 0x000 1 =
    some ([rise, fall], { z with moder := 1, pupdr := 1, pinChangedLevel := 1 }) :=
  by decide +kernel
/-- TW6. -/
theorem test_wrOtyper : write z 0x004 0x0000FFFF = some ([rise, fall], { z with otyper := 0x0000FFFF }) :=
  by decide +kernel
/-- TW7. -/
theorem test_wrOspeedr : write z 0x008 0xFFFFFFFF = some ([rise, fall], { z with ospeedr := 0xFFFFFFFF }) :=
  by decide +kernel
/-- S3, step 1: pull code 3 resolves low. -/
theorem test_wrPupdr : write z 0x00C 0x0000001B = some ([.pinChanged 2 true, rise, fall],
    { z with pupdr := 0x0000001B, idr := 4, pinChangedLevel := 4 }) :=
  by decide +kernel
/-- TW12: an ANALOG pin is pulled up without a notification. -/
theorem test_wrPupdr_analog : write { z with moder := 0xFFFFFFFF } 0x00C 0x00000040 =
    some ([rise, fall], { z with moder := 0xFFFFFFFF, pupdr := 0x40, idr := 8 }) :=
  by decide +kernel
/-- TW28. -/
theorem test_wrIdr : write z 0x010 0xFFFFFFFF = some ([.diag (.readOnly 0x010#10), rise, fall], z) :=
  by decide +kernel
/-- TW16, TW17: the upper half is stored and drives nothing. -/
theorem test_wrOdr : write { z with moder := 0x55555555 } 0x014 0xFFFF8001 =
    some ([rise, fall], { z with moder := 0x55555555, odr := 0xFFFF8001, idr := 0x8001 }) :=
  by decide +kernel
/-- S5, the second line. -/
theorem test_wrBsrr : write { z with odr := 0x0000000F } 0x018 0x00050030 =
    some ([rise, fall], { z with odr := 0x0000003A }) :=
  by decide +kernel
/-- TW19: set wins on all 16, the upper half is untouched. -/
theorem test_wrBsrr_set_wins : write { z with odr := 0xABCD1234 } 0x018 0xFFFFFFFF =
    some ([rise, fall], { z with odr := 0xABCDFFFF }) :=
  by decide +kernel
/-- TW8. -/
theorem test_wrLckr : write z 0x01C 0x0001FFFF = some ([rise, fall], { z with lckr := 0x0001FFFF }) :=
  by decide +kernel
/-- TW10. -/
theorem test_wrAfrl : write z 0x020 0x76543210 = some ([rise, fall], { z with afrl := 0x76543210 }) :=
  by decide +kernel
/-- TW11. -/
theorem test_wrAfrh : write z 0x024 0xFEDCBA98 = some ([rise, fall], { z with afrh := 0xFEDCBA98 }) :=
  by decide +kernel
/-- TW24. -/
theorem test_wrBrr : write { z with odr := 0xFFFFFFFF } 0x028 0xFFFF0101 =
    some ([rise, fall], { z with odr := 0xFFFFFEFE }) :=
  by decide +kernel
/-- TW27. -/
theorem test_wrBrrF4 : write { zF4 with odr := 0x0000FFFF } 0x028 0x00000101 =
    some ([.diag (.badOffset 0x028#10), rise, fall], { zF4 with odr := 0x0000FFFF }) :=
  by decide +kernel
/-- TW32: the write's own diagnostic first, then the pass's. -/
theorem test_wrBad : write { z with moder := 1, externalDriven := 1 } 0x030 0 =
    some ([.diag (.badOffset 0x030#10), .diag (.short 0), rise, fall], { z with moder := 1, externalDriven := 1 }) :=
  by decide +kernel
/-- TW31: misaligned, inside ODR. -/
theorem test_wrBad_misaligned : write z 0x016 1 = some ([.diag (.badOffset 0x016#10), rise, fall], z) :=
  by decide +kernel

/-! ## One step each: signal lines (TS1 to TS38) -/

/-- TS8. -/
theorem test_resetAssert_dirty : run dirty (.lineReset 1) = some ([.pinChanged 5 true, rise, fall],
    { z with idr := 0x20, externalDriven := 0x0022, externalLevel := 0x0020, resetAsserted := true
             pinChangedLevel := 0x0021 }) :=
  by decide +kernel
/-- TX28: F4 port A with 14 pins, from the construction state. -/
theorem test_resetAssert_f4 : (run (State.construct { Config.standard with pinCount := 14 }) (.lineReset 1)).map
    (fun r => (r.1, r.2.moder, r.2.pupdr, r.2.idr)) = some ([rise, fall], 0xA8000000, 0x64000000, 0x2000) :=
  by decide +kernel
/-- TS3. -/
theorem test_resetDeassert : run { State.reset with resetAsserted := true } (.lineReset 0) =
    some ([rise, fall], State.reset) :=
  by decide +kernel
/-- TS4 and TS2. -/
theorem test_resetHold : run z (.lineReset 0) = some ([], z) ∧
    run { z with resetAsserted := true } (.lineReset 1) = some ([], { z with resetAsserted := true }) := by decide
/-- TS16. -/
theorem test_enableChange : run z (.lineEnable 0) = some ([rise, fall], off z) :=
  by decide +kernel
/-- TS15 and TS17. -/
theorem test_enableHold : run z (.lineEnable 1) = some ([], z) ∧ run (off z) (.lineEnable 0) = some ([], off z) := by
  decide
/-- TS27 (any positive value), TS18 (the enable flag has no part in it). -/
theorem test_pinHigh : run z (.linePin 3 5) = some ([.pinChanged 3 true, rise, fall],
    { z with idr := 8, externalDriven := 8, externalLevel := 8, pinChangedLevel := 8 }) :=
  by decide +kernel
theorem test_pinHigh_disabled : run (off z) (.linePin 2 1) = some ([.pinChanged 2 true, rise, fall],
    { off z with idr := 4, externalDriven := 4, externalLevel := 4, pinChangedLevel := 4 }) :=
  by decide +kernel
/-- TS36: an OUTPUT pin driven low. -/
theorem test_pinLow : run { z with moder := 4, odr := 2, idr := 2 } (.linePin 1 0) =
    some ([.diag (.short 1), rise, fall], { z with moder := 4, odr := 2, externalDriven := 2 }) :=
  by decide +kernel
/-- TS28: the float keeps the external level bit. -/
theorem test_pinFloat : run { z with idr := 8, externalDriven := 8, externalLevel := 8, pinChangedLevel := 8 }
    (.linePin 3 (-1)) = some ([.pinChanged 3 false, rise, fall], { z with externalLevel := 8 }) :=
  by decide +kernel
/-- TS31 to TS33. -/
theorem test_pinBadindex : refusal z (.linePin 16 1) = some (.pinIndex 16) ∧
    refusal z (.linePin (-1) 1) = some (.pinIndex (-1)) ∧ refusal z (.linePin 100 (-1)) = some (.pinIndex 100) := by
  decide
/-- TX18 and TX14 in one pass: pin 0 ANALOG pulled up, pin 1 OUTPUT driven to its own level. -/
theorem test_resolve :
    (match exec .resolve
        { z with moder := 0x7, pupdr := 0x1, odr := 0x2, externalDriven := 0x2, externalLevel := 0x2 } with
      | .next t => some (t.idr, t.events) | .fault _ => none | .refused _ => none) =
      some (3, [.diag (.short 1), rise, fall]) :=
  by decide +kernel

/-! ## What stands around the operations -/

theorem test_address_maps : readAtAddress { cfgOther with base := 0x40020000 } 4 0x40020014 = .busRead 4 0x014 ∧
    writeAtAddress { cfgOther with base := 0x400 } 4 0x3FF 1 = .busWrite 4 (-1) 1 := by decide
theorem test_toggle : togglePinWrite 5 0x20 = [.busWrite 4 0x018 0x00200000] ∧
    togglePinWrite 5 0 = [.busWrite 4 0x018 0x20] := by decide
theorem test_readPin : readPinResult 13 0x0000A000 = 1 ∧ readPinResult 14 0x0000A000 = 0 := by decide
theorem test_persisted : (persisted dirty).externalDriven = 0x0022 ∧ (persisted dirty).enable = true := by decide

/-! ## Witnesses: states and operands that meet the hypotheses of each statement -/

/-- An OUTPUT pin high, another pin pulled up, a third driven high: a state between operations. -/
def live : State :=
  { z with moder := 0x00000004, pupdr := 0x00000001, odr := 0x00000002, idr := 0x00000023
           externalDriven := 0x0020, externalLevel := 0x0020, pinChangedLevel := 0x0021 }

/-- A state with the given operations presented. -/
def presenting (ops : List Operation) (s : State) : State := { s with pending := ops }

theorem live_portInv : PortInv live := portInv_of_bits (by decide) (by decide) (by decide) rfl

theorem off_live_portInv : PortInv (off live) := live_portInv

theorem witness_EncodedRowDecodesToItself :
    WellFormed (.rdBad 0x02C#10) = true ∧ rowCondition (decodeContext z) (.rdBad 0x02C#10) = true ∧
    encode (.rdBad 0x02C#10) = some (.bus 0x02C#11 none) ∧
    WellFormed (.wrBad 0x3FF#10 7) = true ∧ rowCondition (decodeContext z) (.wrBad 0x3FF#10 7) = true ∧
    encode (.wrBad 0x3FF#10 7) = some (.bus 0x7FF#11 (some 7)) ∧
    WellFormed (.pinHigh 15) = true ∧ rowCondition (decodeContext z) (.pinHigh 15) = true ∧
    encode (.pinHigh 15) = some (.linePin 15 0b01#2) ∧ WellFormed .resolve = true := by decide

theorem witness_DecodedRowEncodesBack :
    fetch z (.busWrite 4 0x3FF 7) = .ok (.wrBad 0x3FF#10 7) ∧ fetch z (.linePin 15 9) = .ok (.pinHigh 15) ∧
    fetch (off z) (.busRead 4 0x000) = .ok (.rdDisabled 0x000#10) := by decide

/-- The clauses meet at 0x028 and 0x02C, at misaligned offsets, at pins 15 and 16, at values -1, 0 and 1. -/
theorem witness_PresentedOperationSelectsItsRow :
    (off z).peripheralEnabled = false ∧ z.peripheralEnabled = true ∧ z.cfg.family ≠ .f4 ∧ zF4.cfg.family = .f4 ∧
    fetch z (.busRead 4 0x028) = .ok .rdBrr ∧ fetch zF4 (.busRead 4 0x028) = .ok .rdBrrF4 ∧
    fetch z (.busRead 4 0x029) = .ok (.rdBad 0x029#10) ∧ fetch z (.busRead 4 0x001) = .ok (.rdBad 0x001#10) ∧
    fetch z (.lineReset (-1)) = .ok .resetAssert ∧
    fetch { z with resetAsserted := true } (.lineReset 0) = .ok .resetDeassert ∧
    fetch z (.linePin 15 (-1)) = .ok (.pinFloat 15) ∧ fetch z (.linePin 0 0) = .ok (.pinLow 0) ∧
    fetch z (.linePin 16 1) = .ok (.pinBadindex 16 0b01#2) := by decide

theorem witness_FieldLayoutsAreAsTabled :
    field2 (insertField2 0xFFFFFFFF 15 0b01#2) 15 = 0b01#2 ∧ field2 (insertField2 0xFFFFFFFF 15 0b01#2) 14 = 0b11#2 ∧
    alternateFunctionOf regs 7 = 7#4 ∧ alternateFunctionOf regs 8 = 8#4 ∧ alternateFunctionOf regs 15 = 0xF#4 := by
  decide

theorem witness_StepRunsTheDecodedInstruction :
    (presenting [.busWrite 4 0x014 5, .lineReset 1] z).pending = .busWrite 4 0x014 5 :: [.lineReset 1] ∧
    encodingOf (decodeContext z) (.busWrite 4 0x014 5) = .ok (.bus 0x414#11 (some 5)) ∧
    decode (decodeContext z) (.bus 0x414#11 (some 5)) = .ok (.wrOdr 5) := by decide

theorem witness_StepWithNothingPresentedKeepsTheState : regs.pending = [] := rfl

theorem witness_UndeliverableAccessIsRefused :
    ((1 : Nat) ≠ 4 ∨ (0 : Int) < 0 ∨ (0x400 : Int) ≤ 0) ∧ ((4 : Nat) ≠ 4 ∨ (-1 : Int) < 0 ∨ (0x400 : Int) ≤ -1) ∧
    ((4 : Nat) ≠ 4 ∨ (0x400 : Int) < 0 ∨ (0x400 : Int) ≤ 0x400) := by decide

theorem witness_StepCompletesExactlyOnAcceptableOperations :
    (presenting [.busRead 4 0x3FF] z).pending = .busRead 4 0x3FF :: [] ∧
    acceptable z.cfg (.busRead 4 0x3FF) = true ∧ acceptable z.cfg (.busRead 4 0x400) = false ∧
    acceptable z.cfg (.busWrite 2 0 0) = false ∧ acceptable z.cfg (.linePin 15 0) = true ∧
    acceptable z.cfg (.linePin 16 0) = false ∧ acceptable z.cfg (.linePin (-1) 0) = false := by decide

theorem witness_ReadsReturnTheStoredRegister : regs.peripheralEnabled = true := rfl

theorem witness_ReadsOfWriteOnlyRegistersReturnZero : regs.peripheralEnabled = true ∧ regs.cfg.family ≠ .f4 := by decide

theorem witness_BrrIsAbsentOnF4 : zF4.peripheralEnabled = true ∧ zF4.cfg.family = .f4 := by decide

theorem witness_UnmappedOffsetsReadZeroAndIgnoreWrites :
    regs.peripheralEnabled = true ∧
    (0x028 < (0x02C#10).toNat ∨ (0x02C#10).toNat % 4 ≠ 0) ∧ (0x028 < (0x027#10).toNat ∨ (0x027#10).toNat % 4 ≠ 0) ∧
    (0x028 < (0x3FF#10).toNat ∨ (0x3FF#10).toNat % 4 ≠ 0) ∧ ¬ (0x028 < (0x028#10).toNat ∨ (0x028#10).toNat % 4 ≠ 0) := by
  decide

theorem witness_DisabledReadReturnsZero : (off regs).peripheralEnabled = false := rfl

theorem witness_DisabledWriteIsLost : (off regs).peripheralEnabled = false := rfl

theorem witness_NoBusRowEscapesTheGate :
    (off regs).peripheralEnabled = false ∧
    isEnabledRead .rdBrrF4 = true ∧ encode .rdBrrF4 = some (.bus 0x028#11 none) ∧
    isEnabledWrite (.wrBad 0x02C#10 9) = true ∧ encode (.wrBad 0x02C#10 9) = some (.bus 0x42C#11 (some 9)) := by decide

theorem witness_ReadsHaveNoSideEffect : regs.peripheralEnabled = true ∧ isEnabledRead (.rdBad 0x011#10) = true := by
  decide

theorem witness_WritesOfResolvedRegistersStoreVerbatim : regs.peripheralEnabled = true := rfl

theorem witness_WritesOfOpaqueRegistersChangeNoLevel : live.peripheralEnabled = true ∧ LevelsHold live :=
  ⟨rfl, live_portInv.1⟩

theorem witness_WriteToIdrIsIgnored : live.peripheralEnabled = true ∧ LevelsHold live := ⟨rfl, live_portInv.1⟩

theorem witness_BsrrSetsThenResetsOdrBits : regs.peripheralEnabled = true := rfl

theorem witness_BrrClearsOdrBits : regs.peripheralEnabled = true ∧ regs.cfg.family ≠ .f4 := by decide

theorem witness_EveryEnabledWritePulsesOnce :
    regs.peripheralEnabled = true ∧ isEnabledWrite (.wrIdr 0) = true ∧ isEnabledWrite (.wrBrrF4 0) = true := by decide

/-- One pin for each branch of the multiplexer. -/
theorem witness_PassChoosesExternalThenOutputThenPull :
    (5 < live.cfg.pinCount.val ∧ live.externalDriven.getLsbD 5 = true) ∧
    (1 < live.cfg.pinCount.val ∧ live.externalDriven.getLsbD 1 = false ∧ modeOf live 1 = .output) ∧
    (0 < live.cfg.pinCount.val ∧ live.externalDriven.getLsbD 0 = false ∧ modeOf live 0 ≠ .output ∧
      pullOf live 0 = .up) ∧
    (15 < live.cfg.pinCount.val ∧ live.externalDriven.getLsbD 15 = false ∧ modeOf live 15 ≠ .output ∧
      pullOf live 15 ≠ .up) := by decide

/-- S4's MODER 0xE4 gives the four modes, S3's PUPDR 0x1B the four pulls. -/
theorem witness_ModeAndPullCodes :
    modeOf { z with moder := 0xE4 } 0 = .input ∧ modeOf { z with moder := 0xE4 } 1 = .output ∧
    modeOf { z with moder := 0xE4 } 2 = .alternateFunction ∧ modeOf { z with moder := 0xE4 } 3 = .analog ∧
    pullOf { z with pupdr := 0x1B } 0 = .unnamed ∧ pullOf { z with pupdr := 0x1B } 1 = .down ∧
    pullOf { z with pupdr := 0x1B } 2 = .up ∧ pullOf { z with pupdr := 0x1B } 3 = .none ∧
    z.externalDriven.getLsbD 0 = false := by decide

theorem witness_ShortIsReportedOncePerConflictingPin :
    1 < dirty.cfg.pinCount.val ∧ modeOf dirty 1 = .output ∧ dirty.externalDriven.getLsbD 1 = true := by decide

/-- Pin 15 of two ports with different sizes of everything else. -/
theorem witness_PinsAreIndependentLanes :
    15 < live.cfg.pinCount.val ∧ 15 < z.cfg.pinCount.val ∧ modeOf live 15 = modeOf z 15 ∧ pullOf live 15 = pullOf z 15 ∧
    live.odr.getLsbD 15 = z.odr.getLsbD 15 ∧ live.externalLevel.getLsbD 15 = z.externalLevel.getLsbD 15 ∧
    live.externalDriven.getLsbD 15 = z.externalDriven.getLsbD 15 ∧ live.idr.getLsbD 15 = z.idr.getLsbD 15 := by decide

/-- The four lines of the defaults table exclude each other; one state for each. -/
theorem witness_ResetAssertLoadsTheDefaults :
    dirty.resetAsserted = false ∧ dirty.cfg.family = .other ∧
    (State.reset.resetAsserted = false ∧ State.reset.cfg.family = .f4 ∧ State.reset.cfg.port = 0) ∧
    (zF4.resetAsserted = false ∧ zF4.cfg.family = .f4 ∧ 2 ≤ zF4.cfg.port) ∧
    (∃ c : Config, (State.construct c).resetAsserted = false ∧ c.family = .f4 ∧ c.port = 1) :=
  ⟨rfl, rfl, ⟨rfl, rfl, rfl⟩, ⟨rfl, rfl, by decide⟩, { Config.standard with port := 1 }, rfl, rfl, rfl⟩

theorem witness_ResetDeassertChangesNoRegister :
    ({ live with resetAsserted := true } : State).resetAsserted = true ∧
    PortInv { live with resetAsserted := true } := ⟨rfl, live_portInv⟩

theorem witness_HeldLinesDoNothing :
    (presenting [.lineReset 0] z).pending = .lineReset 0 :: [] ∧
    (presenting [.lineEnable (-3)] z).pending = .lineEnable (-3) :: [] ∧
    decide ((0 : Int) ≠ 0) = z.resetAsserted ∧ decide ((-3 : Int) ≠ 0) = z.peripheralEnabled := by decide

theorem witness_EnableChangeKeepsEveryRegister :
    false ≠ live.peripheralEnabled ∧ true ≠ (off live).peripheralEnabled ∧ PortInv live ∧ PortInv (off live) :=
  ⟨by decide, by decide, live_portInv, off_live_portInv⟩

theorem witness_DrivingAPinForcesItsLevel :
    (0 < live.cfg.pinCount.val ∧ 15 < live.cfg.pinCount.val) ∧ modeOf live 1 = .output := by decide

theorem witness_FloatingAPinDisconnectsIt : 0 < live.cfg.pinCount.val ∧ 15 < live.cfg.pinCount.val := by decide

theorem witness_PinEventMovesOnlyItsPin : 0 < live.cfg.pinCount.val ∧ 15 ≠ 0 ∧ LevelsHold live :=
  ⟨by decide, by decide, live_portInv.1⟩

theorem witness_BadPinIndexIsRefused :
    ((-1 : Int) < 0 ∨ (z.cfg.pinCount.val : Int) ≤ -1) ∧ ((16 : Int) < 0 ∨ (z.cfg.pinCount.val : Int) ≤ 16) ∧
    z.cfg.pinCount.val ≤ 16 ∧ (presenting [.linePin 16 0] z).pending = .linePin 16 0 :: [] := by decide

/-- The lines of the table: 16, 15, 14 and 13 pins on port A, 5 and 4 on port B, port 2, another family. -/
theorem witness_ResetOfTheConstructionState :
    ((16 : Fin 17).val = 16 ∧ (15 : Fin 17).val = 15 ∧ (14 : Fin 17).val = 14 ∧ (13 : Fin 17).val ≤ 13) ∧
    (5 ≤ (5 : Fin 17).val ∧ (4 : Fin 17).val ≤ 4) ∧ Config.standard.family = .f4 ∧ Config.standard.port = 0 ∧
    2 ≤ zF4.cfg.port ∧ cfgOther.family = .other := by decide

theorem witness_StepKeepsTheInvariant :
    PortInv live ∧ step live = .next { live with rdata := none, events := [] } := ⟨live_portInv, rfl⟩

theorem witness_IdrIsAFunctionOfItsInputs :
    LevelsHold live ∧ runsPass dirty (.busWrite 4 0x010 0) = true ∧ runsPass (off dirty) (.linePin 0 1) = true ∧
    runsPass dirty (.lineReset 1) = true ∧ runsPass dirty (.lineEnable 0) = true ∧
    (∃ t, step live = .next t) := ⟨live_portInv.1, rfl, rfl, rfl, rfl, _, rfl⟩

theorem witness_ConfigurationIsFixed : ∃ t, step { z with pending := [.busRead 4 0x000] } = .next t := ⟨_, rfl⟩

theorem witness_DisabledPortIsInertOnTheBus :
    let s := presenting [.busWrite 4 ((0x3FF#10).toNat : Int) 1, .lineEnable 1] (off live)
    s.peripheralEnabled = false ∧ (1 : Int) ≠ 0 ∧ PortInv s ∧
    s.pending = .busWrite 4 ((0x3FF#10).toNat : Int) 1 :: .lineEnable 1 :: [] ∧
    (presenting [.busRead 4 ((0x000#10).toNat : Int)] (off live)).pending = .busRead 4 ((0x000#10).toNat : Int) :: [] ∧
    15 < s.cfg.pinCount.val ∧ s.resetAsserted = false :=
  ⟨rfl, by decide, live_portInv, rfl, rfl, by decide, rfl⟩

theorem witness_OnlyTheNamedOperationsWriteEachState :
    (∃ t, step { dirty with pending := [.busWrite 4 0x004 7] } = .next t) ∧
    (∀ i v, Operation.busWrite 4 0x004 7 ≠ .linePin i v) ∧ (∀ v, Operation.busWrite 4 0x004 7 ≠ .lineReset v) ∧
    (∀ w, Operation.busWrite 4 0x004 7 ≠ .busWrite 4 0x000 w) ∧ runsPass dirty (.busRead 4 0x010) = false := by
  refine ⟨⟨_, rfl⟩, ?_, ?_, ?_, rfl⟩ <;> simp

theorem witness_PulseExactlyWhenAPassRuns :
    (∃ t, step { dirty with pending := [.busWrite 4 0x004 7] } = .next t) ∧
    (∃ t, step { off dirty with pending := [.busWrite 4 0x004 7] } = .next t) := ⟨⟨_, rfl⟩, _, rfl⟩

theorem witness_EventsComeInTheFixedOrder :
    ∃ t, step { dirty with pending := [.busWrite 4 0x030 7] } = .next t := ⟨_, rfl⟩

theorem witness_OnlyReadsReturnData :
    (∃ t, step { dirty with pending := [.busRead 4 0x018] } = .next t) ∧
    (∃ t, step { dirty with pending := [.lineReset 0] } = .next t) := ⟨⟨_, rfl⟩, _, rfl⟩

theorem witness_OpaqueRegistersInfluenceNothing :
    (∃ t, step { regs with pending := [.busWrite 4 0x000 7] } = .next t) ∧
    (∀ o ∈ [(0x004 : Int), 0x008, 0x01C, 0x020, 0x024], ∀ rest : List Operation,
      ([.busWrite 4 0x000 7] : List Operation) ≠ .busRead 4 o :: rest) := ⟨⟨_, rfl⟩, by simp⟩

theorem witness_PassIgnoresTheControlFlags :
    (∃ t, exec .resolve dirty = .next t) ∧ (∃ t, exec (.pinFloat 15) dirty = .next t) := ⟨⟨_, rfl⟩, _, rfl⟩

theorem witness_LineStaysStaleOutsideInputMode :
    modeOf live 1 ≠ .input ∧ LevelsHold live ∧ 15 < live.cfg.pinCount.val :=
  ⟨by decide, live_portInv.1, by decide⟩

theorem witness_SetPinAndClrPinChangeOneOdrBit :
    regs.peripheralEnabled = true ∧ 15 < 16 ∧ regs.cfg.family ≠ .f4 ∧
    setPinOps 15 = [.busWrite 4 0x018 0x00008000] ∧ clrPinOps 15 = [.busWrite 4 0x018 0x80000000] ∧
    clrPinBrrOps 0 = [.busWrite 4 0x028 0x00000001] ∧
    (presenting (setPinOps 15 ++ []) regs).pending = setPinOps 15 ++ [] := by decide

/-- Two states with one record that differ in a stale line. -/
theorem witness_PersistedRecordDeterminesIdr :
    PortInv live ∧ PortInv { live with pinChangedLevel := 0 } ∧ live.cfg = ({ live with pinChangedLevel := 0 } : State).cfg ∧
    persisted live = persisted { live with pinChangedLevel := 0 } :=
  ⟨live_portInv, portInv_of_bits (by decide) (by decide) (by decide) rfl, rfl, rfl⟩

end Sys2Proof.Tests
end

/-!
Proofs about the port's state: what reset leaves alone (O42), the configuration (O45), the disabled port (O46).
-/
namespace Sys2Proof.Machine

variable {s t u : State}

/-! ## What a step can do -/

/-- A step whose operation has a row runs that row. -/
theorem step_of_fetch {op : Operation} {rest : List Operation} {i : Instr} (hp : s.pending = op :: rest)
    (hf : fetch s op = .ok i) : step s = exec i (takeOperation rest s) := by
  simp [step, hp, hf]

/-- A step that completes is idle, or it ran the row of the oldest presented operation. -/
theorem step_next_cases (h : step s = .next t) :
    (s.pending = [] ∧ t = startOperation s) ∨
    ∃ op rest i, s.pending = op :: rest ∧ fetch s op = .ok i ∧ exec i (takeOperation rest s) = .next t := by
  unfold step at h
  split at h
  next hp => exact .inl ⟨hp, (Host.Outcome.next.inj h).symm⟩
  next op rest hp =>
    split at h
    next => cases h
    next i hf => exact .inr ⟨op, rest, i, hp, hf, h⟩

/-! ## The configuration -/

/-- No row changes the configuration, whether or not it runs a pass. -/
theorem exec_keeps_cfg {i : Instr} (h : exec i s = .next t) : t.cfg = s.cfg := by
  obtain ht | ⟨u, hu, hpass⟩ := exec_next_cases h
  · rw [ht]
  · exact hpass.frame.1.trans hu.cfg

/-- No step changes the configuration. -/
theorem step_keeps_cfg (h : step s = .next t) : t.cfg = s.cfg := by
  obtain ⟨-, rfl⟩ | ⟨op, rest, i, -, -, hexec⟩ := step_next_cases h
  · rfl
  · exact (exec_keeps_cfg hexec).trans (takeOperation_cfg s rest)

/-- Settles O45: the bound is the type of PIN_COUNT, and every row hands its configuration on. -/
theorem configurationIsFixed : Obligations.ConfigurationIsFixed :=
  fun s => ⟨Nat.le_of_lt_succ s.cfg.pinCount.isLt, fun _ h => step_keeps_cfg h⟩

/-! ## The lines and the events of a pass -/

/-- A pass notifies exactly the pins its edge detector selects, each with its level. -/
theorem pinChanged_mem_passEvents {i : Nat} {b : Bool} :
    Event.pinChanged i b ∈ passEvents s ↔
      (i < s.cfg.pinCount.val ∧ isNotified s i = true) ∧ pinLevel s i = b := by
  rw [mem_passEvents]
  constructor
  · rintro (⟨_, _, _, h⟩ | ⟨_, hi, hn, h⟩ | h | h) <;> cases h
    exact ⟨⟨hi, hn⟩, rfl⟩
  · rintro ⟨⟨hi, hn⟩, rfl⟩
    exact .inr (.inl ⟨i, hi, hn, rfl⟩)

theorem stateChangedFall_mem_passEvents : Event.stateChangedFall ∈ passEvents s := by
  simp [mem_passEvents]

/-- The output lines of t differ from those of s only as the events of t say: a notified pin's line holds the level
notified, any other is kept, and the state-changed line is low after a fall, else kept (10_state.md R37). -/
def LinesFollowEvents (s t : State) : Prop :=
  (∀ i, (∀ b, Event.pinChanged i b ∉ t.events) → t.pinChangedLevel.getLsbD i = s.pinChangedLevel.getLsbD i) ∧
  (∀ i b, Event.pinChanged i b ∈ t.events → t.pinChangedLevel.getLsbD i = b) ∧
  (Event.stateChangedFall ∉ t.events → t.stateChangedLevel = s.stateChangedLevel) ∧
  (Event.stateChangedFall ∈ t.events → t.stateChangedLevel = false)

/-- The start of an operation has no events and moves no line. -/
theorem linesFollowEvents_startOperation : LinesFollowEvents s (startOperation s) := by
  simp [LinesFollowEvents]

/-- A pass appends its events. -/
theorem OnePass.events_eq (h : OnePass u t) : t.events = u.events ++ passEvents u := by
  rw [h.2.2]

/-- The pin-changed lines and the pulse line move in a pass only as its events say. -/
theorem OnePass.linesFollowEvents (h : OnePass u t) (hu : u.events = []) : LinesFollowEvents u t := by
  have hev : t.events = passEvents u := by rw [h.events_eq, hu, List.nil_append]
  obtain ⟨-, hline, ht⟩ := h
  have hpulse : t.stateChangedLevel = false := by rw [ht]
  rw [LinesFollowEvents, hev]
  refine ⟨fun i hno => ?_, fun i b hmem => ?_, fun hno => absurd stateChangedFall_mem_passEvents hno, fun _ => hpulse⟩
  · have hquiet : ¬(i < u.cfg.pinCount.val ∧ isNotified u i = true) :=
      fun hn => hno _ (pinChanged_mem_passEvents.mpr ⟨hn, rfl⟩)
    rw [hline i, if_neg hquiet]
  · obtain ⟨hn, hb⟩ := pinChanged_mem_passEvents.mp hmem
    rw [hline i, if_pos hn, hb]

/-- From a state that meets the invariant a pass writes nothing but its events. -/
theorem OnePass.eq_of_portInv (h : OnePass u t) (hu : PortInv u) : t = { u with events := t.events } := by
  obtain ⟨hlevels, -, -, hrest⟩ := hu
  obtain ⟨hidr, hlines⟩ := h.of_levelsHold hlevels
  calc t = _ := h.2.2
    _ = { u with events := t.events } := by rw [hidr, hlines, ← hrest, ← h.events_eq]

/-! ## The reset line -/

/-- The state the asserting edge hands to the pass: flag set, registers zeroed, device defaults loaded
(43_signal_lines.md R181). -/
def resetPrepared (s : State) : State := applyDefaults (zeroRegisters (setResetAsserted true (startOperation s)))

theorem exec_resetAssert_released (h : s.resetAsserted = false) :
    ∃ t, exec .resetAssert s = .next t ∧ OnePass (resetPrepared s) t :=
  ⟨_, by simp [exec, execResetAssert, h, assertReset, resetPrepared], resolvePins_onePass _⟩

theorem exec_resetAssert_asserted (h : s.resetAsserted = true) :
    exec .resetAssert s = .next (startOperation s) := by
  simp [exec, execResetAssert, h, holdLine]

/-- Settles O42: an asserted line is held; the asserting edge prepares a pass without touching drive, enable flag,
configuration or lines, and the pass moves the lines as its events say. -/
theorem resetKeepsExternalDriveAndEnable : Obligations.ResetKeepsExternalDriveAndEnable := by
  intro s
  cases hr : s.resetAsserted with
  | true => exact ⟨_, exec_resetAssert_asserted hr, hr, rfl, rfl, rfl, rfl, linesFollowEvents_startOperation⟩
  | false =>
    obtain ⟨t, hexec, hpass⟩ := exec_resetAssert_released hr
    have hframe := hpass.2.2
    refine ⟨t, hexec, ?_, ?_, ?_, ?_, ?_, hpass.linesFollowEvents rfl⟩ <;> rw [hframe] <;> rfl

/-! ## The disabled port -/

/-- A delivered read of a disabled port: 0 and the diagnostic, whatever the offset. -/
theorem step_busRead_disabled {o : Offset} {rest : List Operation} (he : s.peripheralEnabled = false)
    (hp : s.pending = .busRead 4 o.toNat :: rest) :
    step s = .next { s with pending := rest, rdata := some 0, events := [.diag (.disabled o)] } := by
  have hf : fetch s (.busRead 4 o.toNat) = .ok (.rdDisabled o) := by
    simp [fetch_busRead, decodeRead, decodeContext, he]
  rw [step_of_fetch hp hf]
  rfl

/-- A delivered write to a disabled port: the diagnostic and nothing else, whatever the offset and the data. -/
theorem step_busWrite_disabled {o : Offset} {w : Word} {rest : List Operation} (he : s.peripheralEnabled = false)
    (hp : s.pending = .busWrite 4 o.toNat w :: rest) :
    step s = .next { s with pending := rest, rdata := none, events := [.diag (.disabled o)] } := by
  have hf : fetch s (.busWrite 4 o.toNat w) = .ok (.wrDisabled o w) := by
    simp [fetch_busWrite, decodeWrite, decodeContext, he]
  rw [step_of_fetch hp hf]
  rfl

/-- ENABLE(1) on a disabled port: the flag and one pass. -/
theorem step_enable_disabled {v : Int} {rest : List Operation} (hv : v ≠ 0) (he : s.peripheralEnabled = false)
    (hp : s.pending = .lineEnable v :: rest) :
    ∃ t, step s = .next t ∧ OnePass (setEnabled true (startOperation (takeOperation rest s))) t := by
  have hf : fetch s (.lineEnable v) = .ok (.enableChange true) := by
    simp [fetch_lineEnable, lineLevel, hv, he]
  exact ⟨_, by rw [step_of_fetch hp hf]; simp [exec, execEnableChange, he], resolvePins_onePass _⟩

/-- The first branch of the multiplexer: an externally driven pin has the external level (42_resolve.md R163). -/
theorem pinLevel_of_driven {i : Nat} (h : s.externalDriven.getLsbD i = true) :
    pinLevel s i = s.externalLevel.getLsbD i := by
  simp [pinLevel, muxLevel, h]

/-- PIN_HIGH drives pin i and its IDR bit follows, in every mode and whatever the enable flag. -/
theorem exec_pinHigh_drives {i : Nat} (hi : i < s.cfg.pinCount.val) :
    ∃ t, exec (.pinHigh i) s = .next t ∧ t.externalDriven.getLsbD i = true ∧ t.idr.getLsbD i = true := by
  have h16 : i < 16 := by omega
  obtain ⟨t, hexec, hpass⟩ := pinEvent_inRange hi (fun t => setLevel i true (setDriven i true t))
  have hdriven : (setLevel i true (setDriven i true (startOperation s))).externalDriven.getLsbD i = true := by
    simp [getLsbD_setBit, h16]
  refine ⟨t, hexec, ?_, ?_⟩
  · rw [hpass.2.2]; exact hdriven
  · have hlevel := (hpass.1 i).trans (if_pos hi)
    rw [hlevel, pinLevel_of_driven hdriven]
    simp [getLsbD_setBit, h16]

/-- Settles O46: the gate answers before any offset is looked at, the pass of re-enabling finds the invariant and
writes nothing, and the reset and pin-input rows do not look at the enable flag. -/
theorem disabledPortIsInertOnTheBus : Obligations.DisabledPortIsInertOnTheBus := by
  intro s o w rest he
  refine ⟨fun hp => ⟨_, step_busRead_disabled he hp, rfl, rfl⟩, fun hp => ⟨_, step_busWrite_disabled he hp, rfl, rfl⟩,
    fun v hv hinv hp => ?_, fun i hi => exec_pinHigh_drives hi, fun hr => ?_⟩
  · obtain ⟨u, hstep, hpass⟩ := step_enable_disabled
      (s := { s with pending := .lineEnable v :: rest, rdata := none, events := [.diag (.disabled o)] }) hv he rfl
    refine ⟨_, u, step_busWrite_disabled he hp, hstep, ?_⟩
    rw [hpass.eq_of_portInv hinv]
    rfl
  · obtain ⟨t, hexec, hpass⟩ := exec_resetAssert_released hr
    refine ⟨t, hexec, ?_, ?_, ?_⟩ <;> rw [hpass.2.2] <;> rfl

end Sys2Proof.Machine

/-!
Proofs about the bus reads: the stored registers (O10), the write-only ones (O11), offset 0x028 on F4 (O12), the
disabled port (O14). Selectors come from the round trip of each row, effects from the gate that every bus row shares.
-/
namespace Sys2Proof.Machine

open Laws

variable {s : State}

/-! ## What lies at 0x028 -/

theorem readBrrOffset_of_ne_f4 (h : s.cfg.family ≠ .f4) : readBrrOffset s = returnData 0 s := if_neg h

theorem readBrrOffset_of_f4 (h : s.cfg.family = .f4) : readBrrOffset s = badRead 0x028#10 s := if_pos h

theorem writeBrrOffset_of_f4 (h : s.cfg.family = .f4) (w : Word) :
    writeBrrOffset w s = diag (.badOffset 0x028#10) s := if_pos h

/-! ## The rows at 0x028 on an enabled port -/

theorem exec_rdBrr_of_ne_f4 (he : s.peripheralEnabled = true) (hf : s.cfg.family ≠ .f4) :
    exec .rdBrr s = .next { s with rdata := some 0, events := [] } :=
  calc exec .rdBrr s = .next (readBrrOffset (startOperation s)) := busRead_enabled he _ _
    _ = .next (returnData 0 (startOperation s)) := by rw [readBrrOffset_of_ne_f4 (s := startOperation s) hf]

theorem exec_rdBrrF4_of_f4 (he : s.peripheralEnabled = true) (hf : s.cfg.family = .f4) :
    exec .rdBrrF4 s = .next { s with rdata := some 0, events := [.diag (.badOffset 0x028#10)] } :=
  calc exec .rdBrrF4 s = .next (readBrrOffset (startOperation s)) := busRead_enabled he _ _
    _ = .next (badRead 0x028#10 (startOperation s)) := by rw [readBrrOffset_of_f4 (s := startOperation s) hf]

/-- The rejected write hands the pass a state in which only the outputs are new: no register, ODR included, has
changed. -/
theorem exec_wrBrrF4_of_f4 (he : s.peripheralEnabled = true) (hf : s.cfg.family = .f4) (w : Word) :
    ∃ t, exec (.wrBrrF4 w) s = .next t ∧
      OnePass { s with rdata := none, events := [.diag (.badOffset 0x028#10)] } t := by
  obtain ⟨t, hexec, hpass⟩ := busWrite_enabled he (regOffset .brr) (writeBrrOffset w)
  rw [writeBrrOffset_of_f4 (s := startOperation s) hf] at hpass
  exact ⟨t, hexec, hpass⟩

/-! ## The statements -/

/-- Settles O10: each selector is that of its row's round trip, and the gate, open, runs the row's effect on the
started operation, whose registers are those of the state. -/
theorem readsReturnTheStoredRegister : Obligations.ReadsReturnTheStoredRegister := by
  intro s he
  exact ⟨⟨RoundTrip.rdModer _ _ rfl he rfl, busRead_enabled he _ _⟩,
    ⟨RoundTrip.rdOtyper _ _ rfl he rfl, busRead_enabled he _ _⟩,
    ⟨RoundTrip.rdOspeedr _ _ rfl he rfl, busRead_enabled he _ _⟩,
    ⟨RoundTrip.rdPupdr _ _ rfl he rfl, busRead_enabled he _ _⟩,
    ⟨RoundTrip.rdIdr _ _ rfl he rfl, busRead_enabled he _ _⟩,
    ⟨RoundTrip.rdOdr _ _ rfl he rfl, busRead_enabled he _ _⟩,
    ⟨RoundTrip.rdLckr _ _ rfl he rfl, busRead_enabled he _ _⟩,
    ⟨RoundTrip.rdAfrl _ _ rfl he rfl, busRead_enabled he _ _⟩,
    ⟨RoundTrip.rdAfrh _ _ rfl he rfl, busRead_enabled he _ _⟩⟩

/-- Settles O11: BSRR has no stored value to return, and off F4 neither has BRR. -/
theorem readsOfWriteOnlyRegistersReturnZero : Obligations.ReadsOfWriteOnlyRegistersReturnZero := by
  intro s he
  refine ⟨⟨RoundTrip.rdBsrr _ _ rfl he rfl, busRead_enabled he _ _⟩, fun hf => ?_⟩
  have hrow : rowCondition (decodeContext s) .rdBrr = true := by simp [rowCondition, decodeContext, he, hf]
  exact ⟨RoundTrip.rdBrr _ _ rfl hrow rfl, exec_rdBrr_of_ne_f4 he hf⟩

/-- Settles O12: FAMILY selects the F4 rows at 0x028, and both take the bad-offset path. -/
theorem brrIsAbsentOnF4 : Obligations.BrrIsAbsentOnF4 := by
  intro s w he hf
  have hread : rowCondition (decodeContext s) .rdBrrF4 = true := by simp [rowCondition, decodeContext, he, hf]
  have hwrite : rowCondition (decodeContext s) (.wrBrrF4 w) = true := hread
  exact ⟨RoundTrip.rdBrrF4 _ _ rfl hread rfl, exec_rdBrrF4_of_f4 he hf,
    RoundTrip.wrBrrF4 w _ _ rfl hwrite rfl, exec_wrBrrF4_of_f4 he hf w⟩

/-- Settles O14: the closed gate is the whole condition of RD_DISABLED, at every offset. -/
theorem disabledReadReturnsZero : Obligations.DisabledReadReturnsZero := by
  intro s o he
  have hrow : rowCondition (decodeContext s) (.rdDisabled o) = true := by simp [rowCondition, decodeContext, he]
  exact ⟨RoundTrip.rdDisabled o _ _ rfl hrow rfl, rfl⟩

end Sys2Proof.Machine

/-!
Proofs about the bus writes: the disabled port (O15), the registers that resolution reads (O18), the opaque ones (O19),
the set and reset operands (O21, O22). Selectors come from the round trip of each row, the next state from the gate and
the one pass that every write of an enabled port shares.
-/
namespace Sys2Proof.Machine

open Laws

variable {s t u : State}

/-! ## The set and reset operations on ODR -/

/-- A bit set in both masks is set. -/
theorem getLsbD_setReset (odr setMask resetMask : Word) (k : Nat) :
    (setReset odr setMask resetMask).getLsbD k =
      if setMask.getLsbD k = true then true else if resetMask.getLsbD k = true then false else odr.getLsbD k := by
  by_cases hk : k < 32
  · have hbit : (setReset odr setMask resetMask).getLsbD k =
        (odr.getLsbD k && !resetMask.getLsbD k || setMask.getLsbD k) := by
      simp only [setReset, BitVec.getLsbD_or, BitVec.getLsbD_and, BitVec.getLsbD_not, hk, decide_true, Bool.true_and]
    rw [hbit]
    cases setMask.getLsbD k <;> cases resetMask.getLsbD k <;> simp
  · simp [BitVec.getLsbD_of_ge _ _ (Nat.le_of_not_lt hk)]

/-- Resetting alone is setting nothing. -/
theorem resetOnly_eq_setReset (odr resetMask : Word) : resetOnly odr resetMask = setReset odr 0 resetMask := by
  simp [resetOnly, setReset]

theorem getLsbD_resetOnly (odr resetMask : Word) (k : Nat) :
    (resetOnly odr resetMask).getLsbD k = if resetMask.getLsbD k = true then false else odr.getLsbD k := by
  simp [resetOnly_eq_setReset, getLsbD_setReset]

/-- The masks of a BSRR value are its two halves (30_encoding.md R100). -/
theorem getLsbD_setReset_bsrrMasks (odr w : Word) (k : Nat) :
    (setReset odr (bsrrSetMask w) (bsrrResetMask w)).getLsbD k =
      if k < 16 ∧ w.getLsbD k = true then true
      else if k < 16 ∧ w.getLsbD (16 + k) = true then false
      else odr.getLsbD k := by
  simp only [getLsbD_setReset, getLsbD_bsrrSetMask, getLsbD_bsrrResetMask, Bool.and_eq_true, decide_eq_true_eq]

/-- The mask of a BRR value is its low half (30_encoding.md R101). -/
theorem getLsbD_resetOnly_brrMask (odr w : Word) (k : Nat) :
    (resetOnly odr (brrResetMask w)).getLsbD k =
      if k < 16 ∧ w.getLsbD k = true then false else odr.getLsbD k := by
  simp only [getLsbD_resetOnly, getLsbD_brrResetMask, Bool.and_eq_true, decide_eq_true_eq]

/-! ## The row at 0x028 off F4 -/

theorem writeBrrOffset_of_ne_f4 (h : s.cfg.family ≠ .f4) (w : Word) :
    writeBrrOffset w s = { s with odr := resetOnly s.odr (brrResetMask w) } := if_neg h

theorem exec_wrBrr_of_ne_f4 (he : s.peripheralEnabled = true) (hf : s.cfg.family ≠ .f4) (w : Word) :
    ∃ t, exec (.wrBrr w) s = .next t ∧
      OnePass { s with odr := resetOnly s.odr (brrResetMask w), rdata := none, events := [] } t := by
  obtain ⟨t, hexec, hpass⟩ := busWrite_enabled he (regOffset .brr) (writeBrrOffset w)
  rw [writeBrrOffset_of_ne_f4 (s := startOperation s) hf] at hpass
  exact ⟨t, hexec, hpass⟩

/-! ## A pass that finds the levels right -/

/-- A pin whose IDR bit is its level already is not notified. -/
theorem isNotified_of_levelsHold (hl : LevelsHold s) {i : Nat} (hi : i < s.cfg.pinCount.val) :
    isNotified s i = false := by
  simp [isNotified, hl i hi]

/-- Where the levels hold, a pass emits no PinChanged of its own. -/
theorem OnePass.no_pinChanged_of_levelsHold (h : OnePass u t) (hu : u.events = []) (hl : LevelsHold u) (i : Nat)
    (b : Bool) : Event.pinChanged i b ∉ t.events := by
  rw [h.events_eq, hu, List.nil_append, pinChanged_mem_passEvents]
  rintro ⟨⟨hi, hn⟩, -⟩
  exact Bool.false_ne_true ((isNotified_of_levelsHold hl hi).symm.trans hn)

/-- An enabled write whose effect emits nothing moves no level and notifies nobody where the levels hold after the
effect. -/
theorem busWrite_enabled_quiet (he : s.peripheralEnabled = true) (o : Offset) (f : State → State)
    (hf : (f (startOperation s)).events = []) :
    ∃ t, busWrite o f s = .next t ∧ OnePass (f (startOperation s)) t ∧
      (LevelsHold (f (startOperation s)) →
        t.idr = (f (startOperation s)).idr ∧ t.pinChangedLevel = (f (startOperation s)).pinChangedLevel ∧
        ∀ i b, Event.pinChanged i b ∉ t.events) := by
  obtain ⟨t, hexec, hpass⟩ := busWrite_enabled he o f
  refine ⟨t, hexec, hpass, fun hl => ?_⟩
  obtain ⟨hidr, hlines⟩ := hpass.of_levelsHold hl
  exact ⟨hidr, hlines, hpass.no_pinChanged_of_levelsHold hf hl⟩

/-! ## The statements -/

/-- Settles O15: the closed gate is the whole condition of WR_DISABLED, at every offset, and the row looks at nothing
but its offset. -/
theorem disabledWriteIsLost : Obligations.DisabledWriteIsLost := by
  intro s o w he
  have hrow : rowCondition (decodeContext s) (.wrDisabled o w) = true := by simp [rowCondition, decodeContext, he]
  exact ⟨RoundTrip.wrDisabled o w _ _ rfl hrow rfl, rfl⟩

/-- Settles O18: the gate, open, stores the value in the started operation and resolves that state by one pass. -/
theorem writesOfResolvedRegistersStoreVerbatim : Obligations.WritesOfResolvedRegistersStoreVerbatim := by
  intro s w he
  exact ⟨⟨RoundTrip.wrModer w _ _ rfl he rfl, busWrite_enabled he _ (fun t => { t with moder := w })⟩,
    ⟨RoundTrip.wrPupdr w _ _ rfl he rfl, busWrite_enabled he _ (fun t => { t with pupdr := w })⟩,
    ⟨RoundTrip.wrOdr w _ _ rfl he rfl, busWrite_enabled he _ (fun t => { t with odr := w })⟩⟩

/-- Settles O19: an opaque register is no input of a level, so the levels that hold before the store hold after it, and
the pass finds them right. -/
theorem writesOfOpaqueRegistersChangeNoLevel : Obligations.WritesOfOpaqueRegistersChangeNoLevel := by
  intro s w he
  exact ⟨⟨RoundTrip.wrOtyper w _ _ rfl he rfl, busWrite_enabled_quiet he _ (fun t => { t with otyper := w }) rfl⟩,
    ⟨RoundTrip.wrOspeedr w _ _ rfl he rfl, busWrite_enabled_quiet he _ (fun t => { t with ospeedr := w }) rfl⟩,
    ⟨RoundTrip.wrLckr w _ _ rfl he rfl, busWrite_enabled_quiet he _ (fun t => { t with lckr := w }) rfl⟩,
    ⟨RoundTrip.wrAfrl w _ _ rfl he rfl, busWrite_enabled_quiet he _ (fun t => { t with afrl := w }) rfl⟩,
    ⟨RoundTrip.wrAfrh w _ _ rfl he rfl, busWrite_enabled_quiet he _ (fun t => { t with afrh := w }) rfl⟩⟩

/-- Settles O21: the value stored in ODR is the set-and-reset of the value's two halves, read bit by bit. -/
theorem bsrrSetsThenResetsOdrBits : Obligations.BsrrSetsThenResetsOdrBits := by
  intro s w he
  obtain ⟨t, hexec, hpass⟩ := busWrite_enabled he (regOffset .bsrr)
    (fun t => { t with odr := setReset t.odr (bsrrSetMask w) (bsrrResetMask w) })
  exact ⟨RoundTrip.wrBsrr w _ _ rfl he rfl, _, t, getLsbD_setReset_bsrrMasks s.odr w, hexec, hpass⟩

/-- Settles O22: FAMILY selects WR_BRR off F4, and the value stored in ODR is the reset of the value's low half. -/
theorem brrClearsOdrBits : Obligations.BrrClearsOdrBits := by
  intro s w he hf
  have hrow : rowCondition (decodeContext s) (.wrBrr w) = true := by simp [rowCondition, decodeContext, he, hf]
  obtain ⟨t, hexec, hpass⟩ := exec_wrBrr_of_ne_f4 he hf w
  exact ⟨RoundTrip.wrBrr w _ _ rfl hrow rfl, _, t, getLsbD_resetOnly_brrMask s.odr w, hexec, hpass⟩

end Sys2Proof.Machine

/-!
Proofs about the resolution pass: RESOLVE itself (O24), the multiplexer (O25), the conflict detector (O27), the edge
detector (O28). RESOLVE is one pass over the started operation; what a pass emits for one pin is counted by that pin's
own events, because no other pin and not the pulse can emit them.
-/
namespace Sys2Proof.Machine

variable {s t u : State}

/-! ## RESOLVE is a pass that nobody selects -/

/-- RESOLVE completes in every state: one pass over the started operation. -/
theorem exec_resolve_onePass (s : State) : ∃ t, exec .resolve s = .next t ∧ OnePass (startOperation s) t :=
  ⟨_, rfl, resolvePins_onePass _⟩

theorem decodeRead_ne_resolve (c : DecodeContext) (o : Offset) : decodeRead c o ≠ .resolve := by
  unfold decodeRead
  split
  next => nofun
  next =>
    cases regAt o with
    | none => nofun
    | some r =>
      cases r with
      | brr => dsimp only; split <;> nofun
      | _ => nofun

theorem decodeWrite_ne_resolve (c : DecodeContext) (o : Offset) (w : Word) : decodeWrite c o w ≠ .resolve := by
  unfold decodeWrite
  split
  next => nofun
  next =>
    cases regAt o with
    | none => nofun
    | some r =>
      cases r with
      | brr => dsimp only; split <;> nofun
      | _ => nofun

/-- No operation of the environment selects RESOLVE (42_resolve.md R160): a bus access that is delivered selects a row
of its own direction, a line operation a row of its own line. -/
theorem fetch_ne_resolve (s : State) (op : Operation) : fetch s op ≠ .ok .resolve := by
  cases op with
  | busRead size offset =>
    cases hd : deliverable size offset with
    | false => rw [fetch_busRead_undeliverable hd]; nofun
    | true =>
      obtain ⟨rfl, o, rfl⟩ := exists_offset_of_deliverable hd
      rw [fetch_busRead]
      exact fun h => decodeRead_ne_resolve _ _ (Except.ok.inj h)
  | busWrite size offset w =>
    cases hd : deliverable size offset with
    | false => rw [fetch_busWrite_undeliverable hd]; nofun
    | true =>
      obtain ⟨rfl, o, rfl⟩ := exists_offset_of_deliverable hd
      rw [fetch_busWrite]
      exact fun h => decodeWrite_ne_resolve _ _ _ (Except.ok.inj h)
  | lineReset v => rw [fetch_lineReset]; split_ifs <;> nofun
  | lineEnable v => rw [fetch_lineEnable]; split_ifs <;> nofun
  | linePin i v => rw [fetch_linePin]; split_ifs <;> nofun

/-! ## The multiplexer -/

/-- The second branch of the multiplexer: an undriven OUTPUT pin has its output-data bit (42_resolve.md R163). -/
theorem pinLevel_of_output {i : Nat} (hd : s.externalDriven.getLsbD i = false) (hm : modeOf s i = .output) :
    pinLevel s i = s.odr.getLsbD i := by
  simp [pinLevel, muxLevel, hd, hm]

/-- The third branch of the multiplexer: any other undriven pin is high exactly if pulled up (42_resolve.md R164). -/
theorem pinLevel_eq_true_iff_pull_up {i : Nat} (hd : s.externalDriven.getLsbD i = false) (hm : modeOf s i ≠ .output) :
    pinLevel s i = true ↔ pullOf s i = .up := by
  simp [pinLevel, muxLevel, hd, hm]

/-- After a pass an implemented pin's IDR bit is the level the pass resolved. -/
theorem OnePass.idr_eq_pinLevel (h : OnePass u t) {i : Nat} (hi : i < u.cfg.pinCount.val) :
    t.idr.getLsbD i = pinLevel u i :=
  (h.1 i).trans (if_pos hi)

/-! ## Counting the events of one pin -/

/-- An event that only the lane i of a pass can emit occurs in the first n lanes as often as in lane i. -/
theorem count_flatMap_range_of_notMem {α : Type} [DecidableEq α] {f : Nat → List α} {e : α} {i : Nat}
    (h : ∀ j, j ≠ i → e ∉ f j) (n : Nat) :
    ((List.range n).flatMap f).count e = if i < n then (f i).count e else 0 := by
  induction n with
  | zero => simp
  | succ k ih =>
    rw [List.range_succ, List.flatMap_append, List.count_append, ih, List.flatMap_singleton]
    rcases Nat.lt_trichotomy i k with hik | rfl | hik
    · have hk : (f k).count e = 0 := List.count_eq_zero_of_not_mem (h k (Nat.ne_of_gt hik))
      simp [hik, Nat.lt_succ_of_lt hik, hk]
    · simp
    · have hk : (f k).count e = 0 := List.count_eq_zero_of_not_mem (h k (Nat.ne_of_lt hik))
      rw [hk, if_neg (Nat.not_lt_of_gt hik), if_neg (by omega)]

/-- The events of one pin by kind: at most its short, then at most its notification. -/
theorem count_pinEvents (s : State) (i : Nat) (e : Event) :
    (pinEvents s i).count e =
      (if isShorted s i = true ∧ .diag (.short i) = e then 1 else 0) +
      (if isNotified s i = true ∧ .pinChanged i (pinLevel s i) = e then 1 else 0) := by
  rw [pinEvents, List.count_append]
  congr 1
  · cases isShorted s i <;> simp [List.count_singleton]
  · cases isNotified s i <;> simp [List.count_singleton]

/-- A pass reports a short once for each implemented pin that has one (42_resolve.md R162). -/
theorem count_short_passEvents (s : State) (i : Nat) :
    (passEvents s).count (.diag (.short i)) = if i < s.cfg.pinCount.val ∧ isShorted s i = true then 1 else 0 := by
  have hlane : ∀ j, j ≠ i → Event.diag (.short i) ∉ pinEvents s j := by
    intro j hj
    simp [pinEvents, hj.symm]
  have hown : (pinEvents s i).count (.diag (.short i)) = if isShorted s i = true then 1 else 0 := by
    simp [count_pinEvents]
  have hpulse : pulseEvents.count (.diag (.short i)) = 0 := rfl
  rw [passEvents, List.count_append, count_flatMap_range_of_notMem hlane, hown, hpulse, Nat.add_zero, ← ite_and]

/-- A pass notifies a level once for each implemented pin whose edge detector fires with it (42_resolve.md R166). -/
theorem count_pinChanged_passEvents (s : State) (i : Nat) (b : Bool) :
    (passEvents s).count (.pinChanged i b) =
      if i < s.cfg.pinCount.val ∧ isNotified s i = true ∧ pinLevel s i = b then 1 else 0 := by
  have hlane : ∀ j, j ≠ i → Event.pinChanged i b ∉ pinEvents s j := by
    intro j hj
    simp [pinEvents, hj.symm]
  have hown : (pinEvents s i).count (.pinChanged i b) =
      if isNotified s i = true ∧ pinLevel s i = b then 1 else 0 := by
    simp [count_pinEvents]
  have hpulse : pulseEvents.count (.pinChanged i b) = 0 := rfl
  rw [passEvents, List.count_append, count_flatMap_range_of_notMem hlane, hown, hpulse, Nat.add_zero, ← ite_and]

/-! ## The detectors, seen from the state after the pass -/

theorem isShorted_iff {i : Nat} :
    isShorted s i = true ↔ modeOf s i = .output ∧ s.externalDriven.getLsbD i = true := by
  simp [isShorted]

/-- The edge detector fires exactly where the pin is in INPUT mode and the pass changes its IDR bit. -/
theorem OnePass.isNotified_iff (h : OnePass u t) {i : Nat} (hi : i < u.cfg.pinCount.val) :
    isNotified u i = true ↔ modeOf u i = .input ∧ t.idr.getLsbD i ≠ u.idr.getLsbD i := by
  simp [isNotified, h.idr_eq_pinLevel hi, and_comm]

/-- The shorts among the events of a pass that starts without events. -/
theorem OnePass.count_short (h : OnePass u t) (hu : u.events = []) (i : Nat) :
    t.events.count (.diag (.short i)) =
      if i < u.cfg.pinCount.val ∧ modeOf u i = .output ∧ u.externalDriven.getLsbD i = true then 1 else 0 := by
  simp only [h.events_eq, hu, List.nil_append, count_short_passEvents, isShorted_iff]

/-- The notifications among the events of a pass that starts without events. -/
theorem OnePass.count_pinChanged (h : OnePass u t) (hu : u.events = []) (i : Nat) (b : Bool) :
    t.events.count (.pinChanged i b) =
      if i < u.cfg.pinCount.val ∧ modeOf u i = .input ∧ t.idr.getLsbD i ≠ u.idr.getLsbD i ∧ t.idr.getLsbD i = b
      then 1 else 0 := by
  rw [h.events_eq, hu, List.nil_append, count_pinChanged_passEvents]
  refine if_congr (and_congr_right fun hi => ?_) rfl rfl
  rw [h.isNotified_iff hi, h.idr_eq_pinLevel hi, and_assoc]

/-- The line of a pin that the pass notifies holds its new level, every other line is kept. -/
theorem OnePass.pinChangedLevel_eq (h : OnePass u t) (i : Nat) :
    t.pinChangedLevel.getLsbD i =
      if i < u.cfg.pinCount.val ∧ modeOf u i = .input ∧ t.idr.getLsbD i ≠ u.idr.getLsbD i
      then t.idr.getLsbD i else u.pinChangedLevel.getLsbD i := by
  rw [h.2.1 i]
  by_cases hi : i < u.cfg.pinCount.val
  · simp only [hi, true_and, h.isNotified_iff hi, ← h.idr_eq_pinLevel hi]
  · simp only [hi, false_and, if_false]

/-! ## The statements -/

/-- Settles O24: RESOLVE starts the operation and runs one pass, and the fetch never answers it. -/
theorem resolveIsOnePass : Obligations.ResolveIsOnePass :=
  ⟨exec_resolve_onePass, fetch_ne_resolve⟩

/-- Settles O25: the IDR bit is the resolved level, and the level is that of the multiplexer's branch. -/
theorem passChoosesExternalThenOutputThenPull : Obligations.PassChoosesExternalThenOutputThenPull := by
  intro s
  obtain ⟨t, hexec, hpass⟩ := exec_resolve_onePass s
  refine ⟨t, hexec, fun i hi => ?_⟩
  have hidr : t.idr.getLsbD i = pinLevel s i := hpass.idr_eq_pinLevel hi
  rw [hidr]
  exact ⟨pinLevel_of_driven, pinLevel_of_output, pinLevel_eq_true_iff_pull_up⟩

/-- Settles O27: the pass counts one short for each conflicting pin, and such a pin is in the multiplexer's first
branch. -/
theorem shortIsReportedOncePerConflictingPin : Obligations.ShortIsReportedOncePerConflictingPin := by
  intro s
  obtain ⟨t, hexec, hpass⟩ := exec_resolve_onePass s
  exact ⟨t, hexec, hpass, fun i => ⟨hpass.count_short rfl i, fun hi _ hd =>
    (hpass.idr_eq_pinLevel hi).trans (pinLevel_of_driven (s := startOperation s) hd)⟩⟩

/-- Settles O28: the pass counts one notification for each INPUT pin whose IDR bit it changes, and moves that pin's
line only. -/
theorem notificationNeedsAChangeInInputMode : Obligations.NotificationNeedsAChangeInInputMode := by
  intro s
  obtain ⟨t, hexec, hpass⟩ := exec_resolve_onePass s
  exact ⟨t, hexec, fun i => ⟨hpass.count_pinChanged rfl i, hpass.pinChangedLevel_eq i⟩⟩

end Sys2Proof.Machine

/-!
Proofs about the signal lines: the releasing edge of the reset line (O32), the enable line (O34), the driven pin (O35).
Each row writes its own inputs and runs one pass; the two control flags are no input of resolution, so their pass finds
the invariant as it was, while the drive of a pin is the first branch of the multiplexer.
-/
namespace Sys2Proof.Machine

open Laws

variable {s t u : State}

/-! ## The control flags -/

/-- RESET_DEASSERT on an asserted line: the flag and one pass (43_signal_lines.md R182). -/
theorem exec_resetDeassert_asserted (h : s.resetAsserted = true) :
    ∃ t, exec .resetDeassert s = .next t ∧ OnePass (setResetAsserted false (startOperation s)) t :=
  ⟨_, by simp [exec, execResetDeassert, h, releaseReset], resolvePins_onePass _⟩

/-- ENABLE_CHANGE to a new level: the flag and one pass (43_signal_lines.md R184). -/
theorem exec_enableChange_of_ne {level : Bool} (h : level ≠ s.peripheralEnabled) :
    ∃ t, exec (.enableChange level) s = .next t ∧ OnePass (setEnabled level (startOperation s)) t :=
  ⟨_, by simp [exec, execEnableChange, h], resolvePins_onePass _⟩

/-- From a state that meets the invariant and has no events a pass writes nothing but its events, and they notify no
pin. -/
theorem OnePass.quiet_of_portInv (h : OnePass u t) (hu : u.events = []) (hinv : PortInv u) :
    t = { u with events := t.events } ∧ ∀ i b, Event.pinChanged i b ∉ t.events :=
  ⟨h.eq_of_portInv hinv, h.no_pinChanged_of_levelsHold hu hinv.1⟩

/-- The invariant does not look at the reset flag (decision D11) or at the outputs of the operation. -/
theorem PortInv.setResetAsserted (h : PortInv s) (b : Bool) : PortInv (setResetAsserted b (startOperation s)) := h

/-- The invariant does not look at the enable flag (decision D5). -/
theorem PortInv.setEnabled (h : PortInv s) (b : Bool) : PortInv (setEnabled b (startOperation s)) := h

/-! ## A driven pin -/

/-- The state PIN_LOW or PIN_HIGH hands to the pass: pin i is driven at the level (43_signal_lines.md R188, R189). -/
def pinDriven (s : State) (i : Nat) (level : Bool) : State := setLevel i level (setDriven i true (startOperation s))

/-- Writing one bit of a pin vector moves no other bit. -/
theorem getLsbD_setBit_pin {i : Nat} (hi : i < s.cfg.pinCount.val) (v : PinVec) (b : Bool) (j : Nat) :
    (setBit v i b).getLsbD j = if j = i then b else v.getLsbD j := by
  rw [getLsbD_setBit]
  exact if_congr ⟨fun h => h.1.symm, by omega⟩ rfl rfl

theorem decode_pinDrive {i : Nat} (hi : i < s.cfg.pinCount.val) (level : Bool) :
    decode (decodeContext s) (.linePin (i : Int) (if level then 0b01#2 else 0b00#2)) =
      .ok (if level then .pinHigh i else .pinLow i) := by
  have h16 : i < 16 := by omega
  cases level with
  | false => exact RoundTrip.pinLow i _ _ (decide_eq_true h16) (decide_eq_true hi) rfl
  | true => exact RoundTrip.pinHigh i _ _ (decide_eq_true h16) (decide_eq_true hi) rfl

theorem exec_pinDrive {i : Nat} (hi : i < s.cfg.pinCount.val) (level : Bool) :
    ∃ t, exec (if level then .pinHigh i else .pinLow i) s = .next t ∧ OnePass (pinDriven s i level) t := by
  cases level with
  | false => exact pinEvent_inRange hi (fun t => setLevel i false (setDriven i true t))
  | true => exact pinEvent_inRange hi (fun t => setLevel i true (setDriven i true t))

theorem pinDriven_externalDriven {i : Nat} (hi : i < s.cfg.pinCount.val) (level : Bool) :
    (pinDriven s i level).externalDriven.getLsbD i = true :=
  (getLsbD_setBit_pin hi s.externalDriven true i).trans (if_pos rfl)

/-- The outside driver wins in every mode (42_resolve.md R163). -/
theorem pinLevel_pinDriven {i : Nat} (hi : i < s.cfg.pinCount.val) (level : Bool) :
    pinLevel (pinDriven s i level) i = level :=
  calc pinLevel (pinDriven s i level) i
    _ = (setBit s.externalLevel i level).getLsbD i := pinLevel_of_driven (pinDriven_externalDriven hi level)
    _ = level := (getLsbD_setBit_pin hi s.externalLevel level i).trans (if_pos rfl)

/-- A pass reports the short of every implemented pin that has one. -/
theorem OnePass.short_mem_events (h : OnePass u t) {i : Nat} (hi : i < u.cfg.pinCount.val)
    (hs : isShorted u i = true) : Event.diag (.short i) ∈ t.events := by
  rw [h.events_eq]
  exact List.mem_append_right _ ((mem_passEvents u _).mpr (.inl ⟨i, hi, hs, rfl⟩))

/-! ## The statements -/

/-- Settles O32: the reset flag is no input of resolution, so the pass after the releasing edge finds the invariant. -/
theorem resetDeassertChangesNoRegister : Obligations.ResetDeassertChangesNoRegister := by
  intro s hr
  obtain ⟨t, hexec, hpass⟩ := exec_resetDeassert_asserted hr
  exact ⟨RoundTrip.resetDeassert _ _ rfl hr rfl, t, hexec, hpass,
    fun hinv => hpass.quiet_of_portInv rfl (hinv.setResetAsserted false)⟩

/-- Settles O34: a new level selects ENABLE_CHANGE, and the enable flag is no input of resolution, so the pass finds the
invariant. -/
theorem enableChangeKeepsEveryRegister : Obligations.EnableChangeKeepsEveryRegister := by
  intro s level hne
  have htracked : s.peripheralEnabled = !level := Bool.eq_not.mpr hne.symm
  have hrow : rowCondition (decodeContext s) (.enableChange level) = true := bne_iff_ne.mpr hne
  have hencode : encode (.enableChange level) =
      some (.lineEnable (BitVec.ofBool level ++ BitVec.ofBool s.peripheralEnabled)) := by rw [htracked]; rfl
  obtain ⟨t, hexec, hpass⟩ := exec_enableChange_of_ne hne
  exact ⟨RoundTrip.enableChange level _ _ rfl hrow hencode, t, hexec, hpass,
    fun hinv => hpass.quiet_of_portInv rfl (hinv.setEnabled level)⟩

/-- Settles O35: the row writes bit i of the two drive vectors, the pass resolves the driven pin to the level, and the
conflict detector sees the drive. -/
theorem drivingAPinForcesItsLevel : Obligations.DrivingAPinForcesItsLevel := by
  intro s i level hi
  obtain ⟨t, hexec, hpass⟩ := exec_pinDrive hi level
  have hlevel : t.idr.getLsbD i = level := (hpass.idr_eq_pinLevel hi).trans (pinLevel_pinDriven hi level)
  exact ⟨decode_pinDrive hi level, _, _, t, getLsbD_setBit_pin hi s.externalDriven true,
    getLsbD_setBit_pin hi s.externalLevel level, hexec, hpass, hlevel,
    fun hm => hpass.short_mem_events hi (isShorted_iff.mpr ⟨hm, pinDriven_externalDriven hi level⟩)⟩

end Sys2Proof.Machine

/-!
Proofs about the encoded forms: decoding is the inverse of encoding in both directions (O1, O2), the words written out
(O3), the row each presented operation selects (O4), the field layouts (O5), the mode and pull codes (O26). Which row an
operation selects follows from the round trip: a row whose condition holds and whose encoded form the operation has.
-/
namespace Sys2Proof.Machine

open Laws

variable {s : State}

/-! ## The round trip, for every row -/

/-- The encoded form of a well-formed row decodes to that row wherever its condition holds. -/
theorem decode_encode (i : Instr) : RoundTrip.Statement i := by
  cases i with
  | rdDisabled o => exact RoundTrip.rdDisabled o
  | rdModer => exact RoundTrip.rdModer
  | rdOtyper => exact RoundTrip.rdOtyper
  | rdOspeedr => exact RoundTrip.rdOspeedr
  | rdPupdr => exact RoundTrip.rdPupdr
  | rdIdr => exact RoundTrip.rdIdr
  | rdOdr => exact RoundTrip.rdOdr
  | rdBsrr => exact RoundTrip.rdBsrr
  | rdLckr => exact RoundTrip.rdLckr
  | rdAfrl => exact RoundTrip.rdAfrl
  | rdAfrh => exact RoundTrip.rdAfrh
  | rdBrr => exact RoundTrip.rdBrr
  | rdBrrF4 => exact RoundTrip.rdBrrF4
  | rdBad o => exact RoundTrip.rdBad o
  | wrDisabled o w => exact RoundTrip.wrDisabled o w
  | wrModer w => exact RoundTrip.wrModer w
  | wrOtyper w => exact RoundTrip.wrOtyper w
  | wrOspeedr w => exact RoundTrip.wrOspeedr w
  | wrPupdr w => exact RoundTrip.wrPupdr w
  | wrIdr w => exact RoundTrip.wrIdr w
  | wrOdr w => exact RoundTrip.wrOdr w
  | wrBsrr w => exact RoundTrip.wrBsrr w
  | wrLckr w => exact RoundTrip.wrLckr w
  | wrAfrl w => exact RoundTrip.wrAfrl w
  | wrAfrh w => exact RoundTrip.wrAfrh w
  | wrBrr w => exact RoundTrip.wrBrr w
  | wrBrrF4 w => exact RoundTrip.wrBrrF4 w
  | wrBad o w => exact RoundTrip.wrBad o w
  | resetAssert => exact RoundTrip.resetAssert
  | resetDeassert => exact RoundTrip.resetDeassert
  | resetHold level => exact RoundTrip.resetHold level
  | enableChange level => exact RoundTrip.enableChange level
  | enableHold level => exact RoundTrip.enableHold level
  | pinBadindex i cls => exact RoundTrip.pinBadindex i cls
  | pinFloat i => exact RoundTrip.pinFloat i
  | pinLow i => exact RoundTrip.pinLow i
  | pinHigh i => exact RoundTrip.pinHigh i
  | resolve => exact RoundTrip.resolve

/-- RESOLVE alone has no encoded form (42_resolve.md R160). -/
theorem encode_eq_none {i : Instr} : encode i = none ↔ i = .resolve := by
  cases i <;> simp [encode]

/-- Settles O1: the round trip of every row, and the one row that has no encoded form. -/
theorem encodedRowDecodesToItself : Obligations.EncodedRowDecodesToItself :=
  fun i hw => ⟨encode_eq_none, fun c e hc he => decode_encode i c e hw hc he⟩

/-! ## The row of an operation encodes back -/

/-- Row i is well formed, its condition holds in context c, and e is its encoded form. -/
structure SelectedBy (c : DecodeContext) (e : Encoding) (i : Instr) : Prop where
  wellFormed : WellFormed i = true
  condition  : rowCondition c i = true
  encoded    : encode i = some e

theorem selectedBy_decodeRead (c : DecodeContext) (o : Offset) :
    SelectedBy c (.bus (busSelector false o) none) (decodeRead c o) := by
  cases he : c.enabled with
  | false => simpa [decodeRead, he] using ⟨rfl, by simp [rowCondition, he], rfl⟩
  | true =>
    cases hr : regAt o with
    | none =>
      have hbad := regAt_eq_none.mp hr
      simpa [decodeRead, he, hr] using ⟨by simp [WellFormed, hbad], he, rfl⟩
    | some r =>
      obtain rfl := regAt_eq_some.mp hr
      cases r with
      | brr =>
        by_cases hf : c.family = .f4
        · simpa [decodeRead, he, hf] using ⟨rfl, by simp [rowCondition, he, hf], rfl⟩
        · simpa [decodeRead, he, hf] using ⟨rfl, by simp [rowCondition, he, hf], rfl⟩
      | _ => simpa [decodeRead, he] using ⟨rfl, he, rfl⟩

theorem selectedBy_decodeWrite (c : DecodeContext) (o : Offset) (w : Word) :
    SelectedBy c (.bus (busSelector true o) (some w)) (decodeWrite c o w) := by
  cases he : c.enabled with
  | false => simpa [decodeWrite, he] using ⟨rfl, by simp [rowCondition, he], rfl⟩
  | true =>
    cases hr : regAt o with
    | none =>
      have hbad := regAt_eq_none.mp hr
      simpa [decodeWrite, he, hr] using ⟨by simp [WellFormed, hbad], he, rfl⟩
    | some r =>
      obtain rfl := regAt_eq_some.mp hr
      cases r with
      | brr =>
        by_cases hf : c.family = .f4
        · simpa [decodeWrite, he, hf] using ⟨rfl, by simp [rowCondition, he, hf], rfl⟩
        · simpa [decodeWrite, he, hf] using ⟨rfl, by simp [rowCondition, he, hf], rfl⟩
      | _ => simpa [decodeWrite, he] using ⟨rfl, he, rfl⟩

theorem selectedBy_decodeReset (c : DecodeContext) (level : Bool) :
    SelectedBy c (.lineReset (lineSelector level c.resetAsserted))
      (decodeReset (lineSelector level c.resetAsserted)) := by
  cases hr : c.resetAsserted <;> cases level <;> exact ⟨rfl, by simp [rowCondition, decodeReset, lineSelector, hr], rfl⟩

theorem selectedBy_decodeEnable (c : DecodeContext) (level : Bool) :
    SelectedBy c (.lineEnable (lineSelector level c.enabled)) (decodeEnable (lineSelector level c.enabled)) := by
  cases he : c.enabled <;> cases level <;> exact ⟨rfl, by simp [rowCondition, decodeEnable, lineSelector, he], rfl⟩

/-- The index of a decoded pin row is below PIN_COUNT, so below 16 in every configuration. -/
theorem selectedBy_decodePin {i v : Int} {row : Instr}
    (h : decodePin (decodeContext s) i (pinClass v) = .ok row) :
    SelectedBy (decodeContext s) (.linePin i (pinClass v)) row := by
  unfold decodePin at h
  split at h
  next hi =>
    obtain ⟨k, rfl, hk⟩ := pinIndexOk_iff.mp hi
    have hcond : decide (k < (decodeContext s).pinCount) = true := decide_eq_true hk
    have hwf : decide (k < 16) = true :=
      decide_eq_true (Nat.lt_of_lt_of_le hk (Nat.le_of_lt_succ s.cfg.pinCount.isLt))
    rcases pinClass_cases v with ⟨-, hc⟩ | ⟨-, hc⟩ | ⟨-, hc⟩ <;> rw [hc] at h ⊢ <;>
      obtain rfl := Except.ok.inj h <;> exact ⟨hwf, hcond, rfl⟩
  next hi =>
    obtain rfl := Except.ok.inj h
    exact ⟨rfl, by simpa [rowCondition] using hi, rfl⟩

/-- The fetch answers a row exactly through an encoded form. -/
theorem fetch_eq_ok {op : Operation} {i : Instr} :
    fetch s op = .ok i ↔
      ∃ e, encodingOf (decodeContext s) op = .ok e ∧ decode (decodeContext s) e = .ok i := by
  unfold fetch
  split
  next r he => simp [he]
  next e he => split <;> simp_all

/-- The row that decoding selects for an operation's encoded form. -/
theorem selectedBy_of_encodingOf {op : Operation} {e : Encoding} {i : Instr}
    (he : encodingOf (decodeContext s) op = .ok e) (hd : decode (decodeContext s) e = .ok i) :
    SelectedBy (decodeContext s) e i := by
  cases op with
  | busRead size offset =>
    rw [encodingOf] at he
    split at he
    next =>
      obtain rfl := Except.ok.inj he
      obtain rfl : decodeRead _ (BitVec.ofInt 10 offset) = i := by simpa [decode] using hd
      exact selectedBy_decodeRead _ _
    next => cases he
  | busWrite size offset w =>
    rw [encodingOf] at he
    split at he
    next =>
      obtain rfl := Except.ok.inj he
      obtain rfl : decodeWrite _ (BitVec.ofInt 10 offset) w = i := by simpa [decode] using hd
      exact selectedBy_decodeWrite _ _ _
    next => cases he
  | lineReset v =>
    obtain rfl := Except.ok.inj he
    obtain rfl := Except.ok.inj hd
    exact selectedBy_decodeReset _ _
  | lineEnable v =>
    obtain rfl := Except.ok.inj he
    obtain rfl := Except.ok.inj hd
    exact selectedBy_decodeEnable _ _
  | linePin i v =>
    obtain rfl := Except.ok.inj he
    exact selectedBy_decodePin hd

/-- Settles O2: the row is the one that decoding selects for the operation's encoded form. -/
theorem decodedRowEncodesBack : Obligations.DecodedRowEncodesBack := by
  intro s op i hf
  obtain ⟨e, he, hd⟩ := fetch_eq_ok.mp hf
  obtain ⟨hw, hc, hi⟩ := selectedBy_of_encodingOf he hd
  exact ⟨hw, hc, e, he, hi⟩

/-! ## The row of each operation -/

/-- A well-formed row whose condition holds is fetched for every operation that has its encoded form. -/
theorem fetch_of_encode {op : Operation} {i : Instr} {e : Encoding} (he : encodingOf (decodeContext s) op = .ok e)
    (hw : WellFormed i = true) (hc : rowCondition (decodeContext s) i = true) (hi : encode i = some e) :
    fetch s op = .ok i :=
  fetch_eq_ok.mpr ⟨e, he, decode_encode i _ e hw hc hi⟩

theorem encodingOf_busRead (c : DecodeContext) (o : Offset) :
    encodingOf c (.busRead 4 o.toNat) = .ok (.bus (busSelector false o) none) := by
  simp [encodingOf, deliverable_toNat]

theorem encodingOf_busWrite (c : DecodeContext) (o : Offset) (w : Word) :
    encodingOf c (.busWrite 4 o.toNat w) = .ok (.bus (busSelector true o) (some w)) := by
  simp [encodingOf, deliverable_toNat]

/-- Past the last register or between two of them no register lies (20_memory.md R61). -/
theorem wellFormed_bad {o : Offset} (h : 0x028 < o.toNat ∨ o.toNat % 4 ≠ 0) :
    WellFormed (.rdBad o) = true := by
  have hm : mappedOffset o = false := by
    simp only [mappedOffset, Bool.and_eq_false_iff, beq_eq_false_iff_ne, decide_eq_false_iff_not]
    omega
  simp [WellFormed, hm]

/-- A read and a write with one offset on a disabled port. -/
theorem fetch_bus_disabled (he : s.peripheralEnabled = false) (o : Offset) (w : Word) :
    fetch s (.busRead 4 o.toNat) = .ok (.rdDisabled o) ∧
    fetch s (.busWrite 4 o.toNat w) = .ok (.wrDisabled o w) := by
  have hrow : rowCondition (decodeContext s) (.rdDisabled o) = true := by simp [rowCondition, decodeContext, he]
  exact ⟨fetch_of_encode (encodingOf_busRead _ o) rfl hrow rfl,
    fetch_of_encode (encodingOf_busWrite _ o w) rfl hrow rfl⟩

/-- A read and a write with one offset, which has no register, on an enabled port. -/
theorem fetch_bus_bad (he : s.peripheralEnabled = true) {o : Offset} (h : 0x028 < o.toNat ∨ o.toNat % 4 ≠ 0)
    (w : Word) :
    fetch s (.busRead 4 o.toNat) = .ok (.rdBad o) ∧ fetch s (.busWrite 4 o.toNat w) = .ok (.wrBad o w) :=
  ⟨fetch_of_encode (encodingOf_busRead _ o) (wellFormed_bad h) he rfl,
    fetch_of_encode (encodingOf_busWrite _ o w) (wellFormed_bad h) he rfl⟩

/-- The rows at 0x028 off F4. -/
theorem fetch_brr_of_ne_f4 (he : s.peripheralEnabled = true) (hf : s.cfg.family ≠ .f4) (w : Word) :
    fetch s (.busRead 4 0x028) = .ok .rdBrr ∧ fetch s (.busWrite 4 0x028 w) = .ok (.wrBrr w) := by
  have hrow : rowCondition (decodeContext s) .rdBrr = true := by simp [rowCondition, decodeContext, he, hf]
  exact ⟨fetch_of_encode rfl rfl hrow rfl, fetch_of_encode rfl rfl hrow rfl⟩

/-- The rows at 0x028 on F4. -/
theorem fetch_brr_of_f4 (he : s.peripheralEnabled = true) (hf : s.cfg.family = .f4) (w : Word) :
    fetch s (.busRead 4 0x028) = .ok .rdBrrF4 ∧ fetch s (.busWrite 4 0x028 w) = .ok (.wrBrrF4 w) := by
  have hrow : rowCondition (decodeContext s) .rdBrrF4 = true := by simp [rowCondition, decodeContext, he, hf]
  exact ⟨fetch_of_encode rfl rfl hrow rfl, fetch_of_encode rfl rfl hrow rfl⟩

/-- A reset-line operation whose level is the tracked one is held. -/
theorem fetch_lineReset_of_eq {v : Int} (h : lineLevel v = s.resetAsserted) :
    fetch s (.lineReset v) = .ok (.resetHold s.resetAsserted) := by
  rw [fetch_lineReset, if_pos h]

theorem fetch_lineReset_of_ne {v : Int} (h : lineLevel v ≠ s.resetAsserted) :
    fetch s (.lineReset v) = .ok (if s.resetAsserted then .resetDeassert else .resetAssert) := by
  rw [fetch_lineReset, if_neg h]

/-- An enable-line operation whose level is the tracked one is held. -/
theorem fetch_lineEnable_of_eq {v : Int} (h : lineLevel v = s.peripheralEnabled) :
    fetch s (.lineEnable v) = .ok (.enableHold s.peripheralEnabled) := by
  rw [fetch_lineEnable, if_pos h]

theorem fetch_lineEnable_of_ne {v : Int} (h : lineLevel v ≠ s.peripheralEnabled) :
    fetch s (.lineEnable v) = .ok (.enableChange (!s.peripheralEnabled)) := by
  rw [fetch_lineEnable, if_neg h]

theorem pinIndexOk_eq_false {n : Nat} {i : Int} : pinIndexOk n i = false ↔ i < 0 ∨ (n : Int) ≤ i := by
  simp [pinIndexOk]
  omega

/-- A pin-input operation outside the port, whatever its value (decision D28). -/
theorem fetch_linePin_bad {i : Int} (h : i < 0 ∨ (s.cfg.pinCount.val : Int) ≤ i) (v : Int) :
    fetch s (.linePin i v) = .ok (.pinBadindex i (pinClass v)) := by
  simp [fetch_linePin, pinIndexOk_eq_false.mpr h]

/-- A pin-input operation inside the port, by the sign of its value. -/
theorem fetch_linePin_ok {k : Nat} (hk : k < s.cfg.pinCount.val) (v : Int) :
    fetch s (.linePin k v) = .ok (if v < 0 then .pinFloat k else if v = 0 then .pinLow k else .pinHigh k) := by
  simp [fetch_linePin, pinIndexOk_iff.mpr ⟨k, rfl, hk⟩]

/-- Settles O4: the encoded form of each operation is that of the row, and the row's condition is the clause's
hypothesis. -/
theorem presentedOperationSelectsItsRow : Obligations.PresentedOperationSelectsItsRow := by
  intro s
  refine ⟨fun o w => ⟨encodingOf_busRead _ o, encodingOf_busWrite _ o w⟩, fun he => fetch_bus_disabled he,
    fun he => ⟨fun w => ?_, fun o w ho => fetch_bus_bad he ho w⟩, fun v => ?_,
    fun i v hi => ⟨_, fetch_linePin_bad hi v⟩, fun k v hk => ?_⟩
  · refine ⟨⟨?_, ?_⟩, ⟨?_, ?_⟩, ⟨?_, ?_⟩, ⟨?_, ?_⟩, ⟨?_, ?_⟩, ⟨?_, ?_⟩, ⟨?_, ?_⟩, ⟨?_, ?_⟩, ⟨?_, ?_⟩, ⟨?_, ?_⟩,
      fun hf => fetch_brr_of_ne_f4 he hf w, fun hf => fetch_brr_of_f4 he hf w⟩ <;>
      exact fetch_of_encode rfl rfl he rfl
  · refine ⟨fun hv hr => ?_, fun hv hr => ?_, fetch_lineReset_of_eq, fetch_lineEnable_of_ne, fetch_lineEnable_of_eq⟩
    · rw [fetch_lineReset_of_ne (by simp [lineLevel, hv, hr]), hr]; rfl
    · rw [fetch_lineReset_of_ne (by simp [lineLevel, hv, hr]), hr]; rfl
  · rw [fetch_linePin_ok hk]
    exact ⟨fun hv => by rw [if_pos hv], fun hv => by rw [if_neg (by omega), if_pos hv],
      fun hv => by rw [if_neg (by omega), if_neg (by omega)]⟩

/-- Settles O3: each written-out word is the encoded form of its row in a context that meets its condition. -/
theorem writtenOutWordsDecode : Obligations.WrittenOutWordsDecode :=
  ⟨decode_encode .rdOdr _ _ rfl rfl rfl, decode_encode (.rdDisabled 0x014#10) _ _ rfl rfl rfl,
    decode_encode .rdBrrF4 _ _ rfl rfl rfl, decode_encode .rdBrr _ _ rfl rfl rfl,
    decode_encode (.rdBad 0x3FC#10) _ _ rfl rfl rfl, decode_encode (.wrBsrr 0x00010001#32) _ _ rfl rfl rfl,
    decode_encode (.wrBrr 0xFFFF0101#32) _ _ rfl rfl rfl, decode_encode (.wrBad 0x016#10 1#32) _ _ rfl rfl rfl,
    decode_encode .resetAssert _ _ rfl rfl rfl, decode_encode (.enableChange false) _ _ rfl rfl rfl,
    decode_encode (.pinFloat 3) _ _ rfl rfl rfl, decode_encode (.pinBadindex 16 0b01#2) _ _ rfl rfl rfl⟩

/-! ## Field layouts -/

/-- The bits of an inserted 2-bit field (30_encoding.md R95). -/
theorem getLsbD_insertField2 (v : Word) (i n : Nat) (f : BitVec 2) (hn : n < 32) :
    (insertField2 v i f).getLsbD n = if 2 * i ≤ n ∧ n < 2 * i + 2 then f.getLsbD (n - 2 * i) else v.getLsbD n := by
  have hmask : ∀ m, (0b11#32).getLsbD m = decide (m < 2) := by
    intro m
    rcases m with _ | _ | m
    · rfl
    · rfl
    · simp [BitVec.getLsbD_ofNat, Nat.testBit_succ]
  simp only [insertField2, BitVec.getLsbD_or, BitVec.getLsbD_and, BitVec.getLsbD_not, BitVec.getLsbD_shiftLeft,
    BitVec.getLsbD_setWidth, hmask, hn, decide_true, Bool.true_and]
  by_cases hlo : n < 2 * i
  · simp [hlo, Nat.not_le.mpr hlo]
  · by_cases hhi : n < 2 * i + 2
    · have : n - 2 * i < 2 := by omega
      have : n - 2 * i < 32 := by omega
      simp [*, Nat.le_of_not_lt hlo]
    · have : 2 ≤ n - 2 * i := by omega
      simp [*, Nat.not_lt.mpr this]

/-- Settles O5: each field's bits are named bits of its register, and an insertion writes its own two. -/
theorem fieldLayoutsAreAsTabled : Obligations.FieldLayoutsAreAsTabled := by
  refine ⟨fun v i j f hi hj => ?_, fun s i k _ hk => ?_, fun s i k hk => ?_, fun s i => ⟨rfl, rfl⟩⟩
  · apply BitVec.eq_of_getLsbD_eq
    intro k hk
    rw [getLsbD_field2, getLsbD_insertField2 v i (2 * j + k) f (by omega)]
    by_cases hij : i = j
    · subst hij
      simp [hk]
    · rw [if_neg (by omega), if_neg hij, getLsbD_field2]
  · unfold alternateFunctionOf
    split <;> rw [getLsbD_field4, decide_eq_true hk, Bool.true_and]
  · rw [outputSpeedOf, getLsbD_field2, decide_eq_true hk, Bool.true_and]

/-! ## Mode and pull codes -/

/-- A 2-bit field is its two register bits. -/
theorem field2_of_bits {v : Word} {i : Nat} {b1 b0 : Bool} (h1 : v.getLsbD (2 * i + 1) = b1)
    (h0 : v.getLsbD (2 * i) = b0) : field2 v i = BitVec.ofBool b1 ++ BitVec.ofBool b0 := by
  refine (bits2_eq_iff _ _).mpr ⟨?_, ?_⟩
  · rw [getLsbD_field2, h1]; cases b1 <;> cases b0 <;> rfl
  · rw [getLsbD_field2, Nat.add_zero, h0]; cases b1 <;> cases b0 <;> rfl

theorem modeOf_of_bits {i : Nat} {b1 b0 : Bool} (h1 : s.moder.getLsbD (2 * i + 1) = b1)
    (h0 : s.moder.getLsbD (2 * i) = b0) : modeOf s i = modeOfCode (BitVec.ofBool b1 ++ BitVec.ofBool b0) := by
  rw [modeOf, field2_of_bits h1 h0]

theorem pullOf_of_bits {i : Nat} {b1 b0 : Bool} (h1 : s.pupdr.getLsbD (2 * i + 1) = b1)
    (h0 : s.pupdr.getLsbD (2 * i) = b0) : pullOf s i = pullOfCode (BitVec.ofBool b1 ++ BitVec.ofBool b0) := by
  rw [pullOf, field2_of_bits h1 h0]

/-- The third branch of the multiplexer is low for every pull but UP. -/
theorem pinLevel_of_pull_ne_up {i : Nat} (hd : s.externalDriven.getLsbD i = false) (hm : modeOf s i ≠ .output)
    (hp : pullOf s i ≠ .up) : pinLevel s i = false :=
  Bool.eq_false_iff.mpr (mt (pinLevel_eq_true_iff_pull_up hd hm).mp hp)

/-- Settles O26: the codes of the two bits, and the unnamed pull is not UP. -/
theorem modeAndPullCodes : Obligations.ModeAndPullCodes := by
  intro s i _
  exact ⟨fun h1 h0 => modeOf_of_bits h1 h0, fun h1 h0 => modeOf_of_bits h1 h0, fun h1 h0 => modeOf_of_bits h1 h0,
    fun h1 h0 => modeOf_of_bits h1 h0, fun h1 h0 => pullOf_of_bits h1 h0, fun h1 h0 => pullOf_of_bits h1 h0,
    fun h1 h0 => pullOf_of_bits h1 h0, fun h1 h0 => pullOf_of_bits h1 h0,
    fun hd hm hp => pinLevel_of_pull_ne_up hd hm (by rw [hp]; decide)⟩

end Sys2Proof.Machine

/-!
Proofs about a step and the bus rows: what a step runs and refuses (O6, O7, O8, O9, O38), the rows of an enabled port
(O13, O16, O17, O20, O23), the single-pin operations (O54). Every enabled row is a read or a write of one offset, said
once by exec_enabledRead and exec_enabledWrite; what follows from the gate or from the pass is derived from these.
-/
namespace Sys2Proof.Machine

open Laws

variable {s t u : State} {i : Instr} {o : Offset} {f : State → State}

/-! ## The read rows of an enabled port -/

/-- t is s with a value returned and at most the diagnostic of an offset without a register. -/
def ReadOutput (s t : State) : Prop :=
  ∃ v es, t = { s with rdata := some v, events := es } ∧ (es = [] ∨ ∃ o, es = [.diag (.badOffset o)])

/-- Row i is the read of offset o with effect f. -/
structure ReadRow (i : Instr) (o : Offset) (f : State → State) : Prop where
  encoded : encode i = some (.bus (busSelector false o) none)
  runs    : ∀ s, exec i s = busRead o f s
  answers : ∀ s, ReadOutput s (f (startOperation s))

/-- A row that returns a value of the state, without a diagnostic. -/
theorem readRow_of_value (g : State → Word) (he : encode i = some (.bus (busSelector false o) none))
    (hr : ∀ s, exec i s = busRead o (fun t => returnData (g t) t) s) : ∃ o f, ReadRow i o f :=
  ⟨o, _, he, hr, fun _ => ⟨_, _, rfl, .inl rfl⟩⟩

/-- What lies at 0x028 reads 0, on F4 with the bad-offset diagnostic. -/
theorem readOutput_readBrrOffset (s : State) : ReadOutput s (readBrrOffset (startOperation s)) := by
  by_cases hf : s.cfg.family = .f4
  · rw [readBrrOffset_of_f4 (s := startOperation s) hf]
    exact ⟨0, _, rfl, .inr ⟨_, rfl⟩⟩
  · rw [readBrrOffset_of_ne_f4 (s := startOperation s) hf]
    exact ⟨0, _, rfl, .inl rfl⟩

/-- Every read row of an enabled port is the read of one offset. -/
theorem exec_enabledRead (hi : isEnabledRead i = true) : ∃ o f, ReadRow i o f := by
  cases i with
  | rdModer => exact readRow_of_value State.moder rfl fun _ => rfl
  | rdOtyper => exact readRow_of_value State.otyper rfl fun _ => rfl
  | rdOspeedr => exact readRow_of_value State.ospeedr rfl fun _ => rfl
  | rdPupdr => exact readRow_of_value State.pupdr rfl fun _ => rfl
  | rdIdr => exact readRow_of_value State.idr rfl fun _ => rfl
  | rdOdr => exact readRow_of_value State.odr rfl fun _ => rfl
  | rdBsrr => exact readRow_of_value (fun _ => 0) rfl fun _ => rfl
  | rdLckr => exact readRow_of_value State.lckr rfl fun _ => rfl
  | rdAfrl => exact readRow_of_value State.afrl rfl fun _ => rfl
  | rdAfrh => exact readRow_of_value State.afrh rfl fun _ => rfl
  | rdBrr | rdBrrF4 => exact ⟨regOffset .brr, readBrrOffset, rfl, fun _ => rfl, readOutput_readBrrOffset⟩
  | rdBad o => exact ⟨o, badRead o, rfl, fun _ => rfl, fun _ => ⟨0, _, rfl, .inr ⟨_, rfl⟩⟩⟩
  | _ => cases hi

/-! ## The write rows of an enabled port -/

/-- The stored registers of u other than the one that offset o writes are those of s (ODR is written at three
offsets). -/
def StoresAt (o : Offset) (s u : State) : Prop :=
  (o ≠ 0x000 → u.moder = s.moder) ∧ (o ≠ 0x004 → u.otyper = s.otyper) ∧ (o ≠ 0x008 → u.ospeedr = s.ospeedr) ∧
  (o ≠ 0x00C → u.pupdr = s.pupdr) ∧ (o ≠ 0x01C → u.lckr = s.lckr) ∧ (o ≠ 0x020 → u.afrl = s.afrl) ∧
  (o ≠ 0x024 → u.afrh = s.afrh) ∧ (o ≠ 0x014 ∧ o ≠ 0x018 ∧ o ≠ 0x028 → u.odr = s.odr)

/-- The external drive and the control flags are no target of a bus write (10_state.md R46). -/
def KeepsLines (s u : State) : Prop :=
  u.externalLevel = s.externalLevel ∧ u.externalDriven = s.externalDriven ∧
  u.resetAsserted = s.resetAsserted ∧ u.peripheralEnabled = s.peripheralEnabled

/-- Row i is a write to offset o with effect f. -/
structure WriteRow (i : Instr) (o : Offset) (f : State → State) : Prop where
  encoded  : ∃ w, encode i = some (.bus (busSelector true o) (some w))
  runs     : ∀ s, exec i s = busWrite o f s
  prepares : ∀ s, Prepared s (f (startOperation s))
  lines    : ∀ s, KeepsLines s (f (startOperation s))
  stores   : ∀ s, StoresAt o s (f (startOperation s))

/-- A row whose effect stores into registers but not IDR, and emits nothing. -/
theorem writeRow_of_store {w : Word} (he : encode i = some (.bus (busSelector true o) (some w)))
    (hr : ∀ s, exec i s = busWrite o f s)
    (hf : ∀ s, f s = { s with
      moder := (f s).moder, otyper := (f s).otyper, ospeedr := (f s).ospeedr, pupdr := (f s).pupdr, odr := (f s).odr
      lckr := (f s).lckr, afrl := (f s).afrl, afrh := (f s).afrh })
    (hs : ∀ s, StoresAt o s (f (startOperation s))) : ∃ o f, WriteRow i o f := by
  refine ⟨o, f, ⟨w, he⟩, hr, fun s => ?_, fun s => ?_, hs⟩ <;> rw [hf]
  · exact ⟨rfl, rfl, .inl rfl, ⟨rfl, rfl⟩, fun _ _ => rfl, fun _ _ => rfl, rfl, .inl rfl⟩
  · exact ⟨rfl, rfl, rfl, rfl⟩

/-- A row whose effect is a diagnostic of its own. -/
theorem writeRow_of_diag {w : Word} {d : Diag} (he : encode i = some (.bus (busSelector true o) (some w)))
    (hr : ∀ s, exec i s = busWrite o (diag d) s) (hd : ∃ o, d = .badOffset o ∨ d = .readOnly o) :
    ∃ o f, WriteRow i o f := by
  have hev : ([] ++ [Event.diag d]) = [] ∨
      ∃ o, [] ++ [Event.diag d] = [.diag (.badOffset o)] ∨ [] ++ [Event.diag d] = [.diag (.readOnly o)] := by
    simpa using hd
  exact ⟨o, diag d, ⟨w, he⟩, hr,
    fun _ => ⟨rfl, rfl, .inl rfl, ⟨rfl, rfl⟩, fun _ _ => rfl, fun _ _ => rfl, rfl, hev⟩,
    fun _ => ⟨rfl, rfl, rfl, rfl⟩, fun _ => by simp [StoresAt]⟩

theorem storesAt_writeBrrOffset (w : Word) (s : State) :
    StoresAt (regOffset .brr) s (writeBrrOffset w (startOperation s)) := by
  unfold writeBrrOffset
  split <;> simp [StoresAt, regOffset]

theorem keepsLines_writeBrrOffset (w : Word) (s : State) : KeepsLines s (writeBrrOffset w (startOperation s)) := by
  unfold writeBrrOffset
  split <;> exact ⟨rfl, rfl, rfl, rfl⟩

/-- Every write row of an enabled port is a write to one offset. -/
theorem exec_enabledWrite (hi : isEnabledWrite i = true) : ∃ o f, WriteRow i o f := by
  cases i with
  | wrModer w =>
    exact writeRow_of_store (f := fun t => { t with moder := w }) rfl (fun _ => rfl) (fun _ => rfl)
      (fun _ => by simp [StoresAt, regOffset])
  | wrOtyper w =>
    exact writeRow_of_store (f := fun t => { t with otyper := w }) rfl (fun _ => rfl) (fun _ => rfl)
      (fun _ => by simp [StoresAt, regOffset])
  | wrOspeedr w =>
    exact writeRow_of_store (f := fun t => { t with ospeedr := w }) rfl (fun _ => rfl) (fun _ => rfl)
      (fun _ => by simp [StoresAt, regOffset])
  | wrPupdr w =>
    exact writeRow_of_store (f := fun t => { t with pupdr := w }) rfl (fun _ => rfl) (fun _ => rfl)
      (fun _ => by simp [StoresAt, regOffset])
  | wrIdr w => exact writeRow_of_diag rfl (fun _ => rfl) ⟨_, .inr rfl⟩
  | wrOdr w =>
    exact writeRow_of_store (f := fun t => { t with odr := w }) rfl (fun _ => rfl) (fun _ => rfl)
      (fun _ => by simp [StoresAt, regOffset])
  | wrBsrr w =>
    exact writeRow_of_store (f := fun t => { t with odr := setReset t.odr (bsrrSetMask w) (bsrrResetMask w) }) rfl
      (fun _ => rfl) (fun _ => rfl) (fun _ => by simp [StoresAt, regOffset])
  | wrLckr w =>
    exact writeRow_of_store (f := fun t => { t with lckr := w }) rfl (fun _ => rfl) (fun _ => rfl)
      (fun _ => by simp [StoresAt, regOffset])
  | wrAfrl w =>
    exact writeRow_of_store (f := fun t => { t with afrl := w }) rfl (fun _ => rfl) (fun _ => rfl)
      (fun _ => by simp [StoresAt, regOffset])
  | wrAfrh w =>
    exact writeRow_of_store (f := fun t => { t with afrh := w }) rfl (fun _ => rfl) (fun _ => rfl)
      (fun _ => by simp [StoresAt, regOffset])
  | wrBrr w | wrBrrF4 w =>
    exact ⟨regOffset .brr, writeBrrOffset w, ⟨w, rfl⟩, fun _ => rfl, fun _ => prepared_writeBrrOffset w,
      keepsLines_writeBrrOffset w, storesAt_writeBrrOffset w⟩
  | wrBad o w => exact writeRow_of_diag rfl (fun _ => rfl) ⟨_, .inl rfl⟩
  | _ => cases hi

/-! ## The pulse among the events -/

/-- The diagnostic an operation may emit before its pass, or instead of one (60_exceptions.md R214). -/
def OwnEvents (es : List Event) : Prop :=
  es = [] ∨ ∃ o, es = [.diag (.disabled o)] ∨ es = [.diag (.badOffset o)] ∨ es = [.diag (.readOnly o)]

theorem Prepared.ownEvents (h : Prepared s u) : OwnEvents u.events :=
  h.events.imp_right fun ⟨o, ho⟩ => ⟨o, .inr ho⟩

theorem OwnEvents.pulse_notMem {es : List Event} (h : OwnEvents es) {e : Event} (he : e ∈ pulseEvents) : e ∉ es := by
  obtain rfl | rfl : e = .stateChangedRise ∨ e = .stateChangedFall := by simpa [pulseEvents] using he
  all_goals obtain rfl | ⟨o, rfl | rfl | rfl⟩ := h <;> simp

/-- No pin of a pass emits the pulse. -/
theorem pulse_notMem_pinEvents {e : Event} (he : e ∈ pulseEvents) (n : Nat) :
    e ∉ (List.range n).flatMap (pinEvents s) := by
  obtain rfl | rfl : e = .stateChangedRise ∨ e = .stateChangedFall := by simpa [pulseEvents] using he
  all_goals simp [pinEvents]

/-! ## The statements on rows -/

/-- An operation's encoded offset is read back from its selector. -/
theorem busSelector_injective {w : Bool} {o o' : Offset} (h : busSelector w o = busSelector w o') : o = o' := by
  simpa using congrArg (BitVec.setWidth 10) h

/-- Settles O16: the gate that every row passes first, closed, sees the offset of the row's own selector. -/
theorem noBusRowEscapesTheGate : Obligations.NoBusRowEscapesTheGate := by
  intro s i sel he
  refine ⟨fun hi hsel => ?_, fun w hi hsel => ?_⟩
  · obtain ⟨o, f, row⟩ := exec_enabledRead hi
    obtain rfl : busSelector false o = sel := by simpa [row.encoded] using hsel
    rw [row.runs, busRead_disabled he, setWidth_busSelector]
  · obtain ⟨o, f, row⟩ := exec_enabledWrite hi
    obtain ⟨w', hw'⟩ := row.encoded
    obtain ⟨rfl, -⟩ : busSelector true o = sel ∧ w' = w := by simpa [hw'] using hsel
    rw [row.runs, busWrite_disabled he, setWidth_busSelector]

/-- An enabled port answers every read row. -/
theorem exec_read_enabled (he : s.peripheralEnabled = true) (hi : isEnabledRead i = true) :
    ∃ t, exec i s = .next t ∧ ReadOutput s t := by
  obtain ⟨o, f, row⟩ := exec_enabledRead hi
  exact ⟨_, (row.runs s).trans (busRead_enabled he o f), row.answers s⟩

/-- Settles O17: a read row's effect on the started operation is its output. -/
theorem readsHaveNoSideEffect : Obligations.ReadsHaveNoSideEffect := by
  intro s i he hi
  obtain ⟨t, hexec, v, es, rfl, hes⟩ := exec_read_enabled he hi
  exact ⟨v, es, hexec, hes⟩

/-- Settles O13: the round trips of the two bad-offset rows, and their diagnostic through the open gate. -/
theorem unmappedOffsetsReadZeroAndIgnoreWrites : Obligations.UnmappedOffsetsReadZeroAndIgnoreWrites := by
  intro s o w he ho
  exact ⟨RoundTrip.rdBad o _ _ (wellFormed_bad ho) he rfl, busRead_enabled he o (badRead o),
    RoundTrip.wrBad o w _ _ (wellFormed_bad ho) he rfl, busWrite_enabled he o (diag (.badOffset o))⟩

/-- Settles O20: the diagnostic is no input of a level, so a pass that finds the levels right keeps IDR. -/
theorem writeToIdrIsIgnored : Obligations.WriteToIdrIsIgnored := by
  intro s w he
  obtain ⟨t, hexec, hpass⟩ := busWrite_enabled he (regOffset .idr) (diag (.readOnly (regOffset .idr)))
  exact ⟨RoundTrip.wrIdr w _ _ rfl he rfl, t, hexec, hpass, fun hl => (hpass.of_levelsHold hl).1⟩

/-- Settles O23: the pass that ends every write closes with the pulse, which neither the row's diagnostic nor a pin
emits, and establishes the levels. -/
theorem everyEnabledWritePulsesOnce : Obligations.EveryEnabledWritePulsesOnce := by
  intro s i he hi
  obtain ⟨o, f, row⟩ := exec_enabledWrite hi
  obtain ⟨t, hexec, hpass⟩ := busWrite_enabled he o f
  have hown := (row.prepares s).ownEvents
  have hquiet : ∀ e ∈ pulseEvents, e ∉ (f (startOperation s)).events ++
      (List.range (f (startOperation s)).cfg.pinCount.val).flatMap (pinEvents (f (startOperation s))) := by
    intro e hmem
    rw [List.mem_append, not_or]
    exact ⟨hown.pulse_notMem hmem, pulse_notMem_pinEvents hmem _⟩
  refine ⟨t, _, (row.runs s).trans hexec, ?_, hquiet _ (by simp [pulseEvents]), hquiet _ (by simp [pulseEvents]),
    by rw [hpass.2.2], hpass.levelsHold⟩
  rw [hpass.events_eq, List.append_assoc]
  rfl

/-! ## The pin rows -/

/-- The two drive vectors rewritten, all else kept. -/
def driveWith (level driven : PinVec → PinVec) (s : State) : State :=
  { s with externalLevel := level s.externalLevel, externalDriven := driven s.externalDriven }

/-- Row i is an event of pin k that rewrites bit k of the drive vectors and no other. -/
structure PinRow (i : Instr) (k : Nat) (level driven : PinVec → PinVec) : Prop where
  runs   : ∀ s, exec i s = pinEvent k (driveWith level driven) s
  level  : ∀ v j, j ≠ k → (level v).getLsbD j = v.getLsbD j
  driven : ∀ v j, j ≠ k → (driven v).getLsbD j = v.getLsbD j

theorem getLsbD_setBit_of_ne {n j k : Nat} (h : j ≠ k) (v : BitVec n) (b : Bool) :
    (setBit v k b).getLsbD j = v.getLsbD j := by
  rw [getLsbD_setBit, if_neg fun hk => h hk.1.symm]

/-- PIN_FLOAT, PIN_LOW and PIN_HIGH are events of their pin (43_signal_lines.md R186). -/
theorem exec_pinRow {k : Nat} (hi : i ∈ [Instr.pinFloat k, Instr.pinLow k, Instr.pinHigh k]) :
    ∃ level driven, PinRow i k level driven := by
  have hbit : ∀ (b : Bool) (v : PinVec) (j : Nat), j ≠ k → (setBit v k b).getLsbD j = v.getLsbD j :=
    fun b v _ hj => getLsbD_setBit_of_ne hj v b
  obtain rfl | rfl | rfl : i = .pinFloat k ∨ i = .pinLow k ∨ i = .pinHigh k := by simpa using hi
  · exact ⟨id, fun v => setBit v k false, fun _ => rfl, fun _ _ _ => rfl, hbit false⟩
  · exact ⟨fun v => setBit v k false, fun v => setBit v k true, fun _ => rfl, hbit false, hbit true⟩
  · exact ⟨fun v => setBit v k true, fun v => setBit v k true, fun _ => rfl, hbit true, hbit true⟩

theorem exec_pinRow_outOfRange {k : Nat} (hi : i ∈ [Instr.pinFloat k, Instr.pinLow k, Instr.pinHigh k])
    (hk : s.cfg.pinCount.val ≤ k) : exec i s = .refused (.pinIndex k) := by
  obtain ⟨level, driven, row⟩ := exec_pinRow hi
  rw [row.runs, pinEvent_outOfRange hk]

theorem exec_pinRow_inRange {k : Nat} (hi : i ∈ [Instr.pinFloat k, Instr.pinLow k, Instr.pinHigh k])
    (hk : k < s.cfg.pinCount.val) :
    ∃ level driven t, PinRow i k level driven ∧ exec i s = .next t ∧
      OnePass (driveWith level driven (startOperation s)) t := by
  obtain ⟨level, driven, row⟩ := exec_pinRow hi
  obtain ⟨t, hexec, hpass⟩ := pinEvent_inRange hk (driveWith level driven)
  exact ⟨level, driven, t, row, (row.runs s).trans hexec, hpass⟩

theorem exec_pinRow_completes {k : Nat} (hi : i ∈ [Instr.pinFloat k, Instr.pinLow k, Instr.pinHigh k])
    (hk : k < s.cfg.pinCount.val) : ∃ t, exec i s = .next t := by
  obtain ⟨_, _, t, -, hexec, -⟩ := exec_pinRow_inRange hi hk
  exact ⟨t, hexec⟩

/-! ## What a step runs -/

/-- Settles O6: the fetch is the encoded form and its decode. -/
theorem stepRunsTheDecodedInstruction : Obligations.StepRunsTheDecodedInstruction :=
  fun _ _ _ e _ hp he hd => step_of_fetch hp (fetch_eq_ok.mpr ⟨e, he, hd⟩)

theorem step_of_pending_nil (hp : s.pending = []) : step s = .next (startOperation s) := by
  simp [step, hp]

/-- Settles O7: the idle step starts an operation and runs none. -/
theorem stepWithNothingPresentedKeepsTheState : Obligations.StepWithNothingPresentedKeepsTheState :=
  fun _ hp => step_of_pending_nil hp

/-- A step whose operation has no row is refused. -/
theorem step_of_fetch_error {op : Operation} {rest : List Operation} {r : Refusal} (hp : s.pending = op :: rest)
    (hf : fetch s op = .error r) : step s = .refused r := by
  simp [step, hp, hf]

theorem deliverable_eq_false {size : Nat} {offset : Int} :
    deliverable size offset = false ↔ size ≠ 4 ∨ offset < 0 ∨ 0x400 ≤ offset := by
  simp [deliverable, imp_iff_not_or, or_assoc]

/-- Settles O8: an access that breaks the contract has no encoded form. -/
theorem undeliverableAccessIsRefused : Obligations.UndeliverableAccessIsRefused := by
  intro s rest size offset w h
  have hd := deliverable_eq_false.mpr h
  exact ⟨step_of_fetch_error rfl (fetch_busRead_undeliverable hd),
    step_of_fetch_error rfl (fetch_busWrite_undeliverable hd w)⟩

/-- A step on a pin outside the port (43_signal_lines.md R190). -/
theorem step_linePin_bad {i v : Int} {rest : List Operation} (hp : s.pending = .linePin i v :: rest)
    (hi : i < 0 ∨ (s.cfg.pinCount.val : Int) ≤ i) : step s = .refused (.pinIndex i) :=
  (step_of_fetch hp (fetch_linePin_bad hi v)).trans rfl

/-- Settles O38: the bad-index row refuses by itself, a pin row by its own index check, and the step runs the
bad-index row. -/
theorem badPinIndexIsRefused : Obligations.BadPinIndexIsRefused :=
  ⟨fun _ _ _ _ => rfl,
    fun _ _ hk => ⟨exec_pinRow_outOfRange (by simp) hk, exec_pinRow_outOfRange (by simp) hk,
      exec_pinRow_outOfRange (by simp) hk⟩,
    fun _ _ _ _ hp hi => step_linePin_bad hp hi⟩

/-! ## Which steps complete -/

/-- A row whose condition holds completes, the bad-index row excepted. -/
theorem exec_completes (hc : rowCondition (decodeContext s) i = true) (hb : ∀ k cls, i ≠ .pinBadindex k cls) :
    ∃ t, exec i s = .next t := by
  cases i with
  | pinBadindex k cls => exact absurd rfl (hb k cls)
  | pinFloat k | pinLow k | pinHigh k =>
    exact exec_pinRow_completes (k := k) (by simp) (of_decide_eq_true hc)
  | resolve => cases hc
  | _ => exact ⟨_, rfl⟩

/-- No row touches the queue. -/
theorem exec_keeps_pending (h : exec i s = .next t) : t.pending = s.pending := by
  obtain ht | ⟨u, hu, hpass⟩ := exec_next_cases h
  · rw [ht]
  · rw [hpass.2.2]
    exact hu.pending

/-- An operation that keeps the environment's duties has a row, and not the bad-index row. -/
theorem fetch_of_acceptable {op : Operation} (ha : acceptable s.cfg op = true) :
    ∃ i, fetch s op = .ok i ∧ ∀ k cls, i ≠ .pinBadindex k cls := by
  cases op with
  | busRead size offset =>
    obtain ⟨rfl, o, rfl⟩ := exists_offset_of_deliverable ha
    refine ⟨_, fetch_busRead s o, fun k cls h => ?_⟩
    simpa [h, encode] using (selectedBy_decodeRead (decodeContext s) o).encoded
  | busWrite size offset w =>
    obtain ⟨rfl, o, rfl⟩ := exists_offset_of_deliverable ha
    refine ⟨_, fetch_busWrite s o w, fun k cls h => ?_⟩
    simpa [h, encode] using (selectedBy_decodeWrite (decodeContext s) o w).encoded
  | lineReset v => exact ⟨_, fetch_lineReset s v, fun k cls => by split_ifs <;> nofun⟩
  | lineEnable v => exact ⟨_, fetch_lineEnable s v, fun k cls => by split_ifs <;> nofun⟩
  | linePin i v =>
    obtain ⟨k, rfl, hk⟩ := pinIndexOk_iff.mp ha
    exact ⟨_, fetch_linePin_ok hk v, fun _ cls => by split_ifs <;> nofun⟩

/-- Settles O9: an accepted operation is fetched as a row whose condition holds, and any other breaks the contract of
the access or of the index. -/
theorem stepCompletesExactlyOnAcceptableOperations : Obligations.StepCompletesExactlyOnAcceptableOperations := by
  intro s op rest hp
  refine ⟨fun ha => ?_, fun ha => ?_⟩
  · obtain ⟨i, hf, hb⟩ := fetch_of_acceptable ha
    obtain ⟨-, hc, -⟩ := decodedRowEncodesBack s op i hf
    obtain ⟨t, ht⟩ := exec_completes (s := takeOperation rest s) hc hb
    exact ⟨t, (step_of_fetch hp hf).trans ht, exec_keeps_pending ht⟩
  · cases op with
    | busRead size offset => exact .inl ⟨_, _, step_of_fetch_error hp (fetch_busRead_undeliverable ha)⟩
    | busWrite size offset w => exact .inl ⟨_, _, step_of_fetch_error hp (fetch_busWrite_undeliverable ha w)⟩
    | lineReset v => cases ha
    | lineEnable v => cases ha
    | linePin i v => exact .inr ⟨_, step_linePin_bad hp (pinIndexOk_eq_false.mp ha)⟩

/-! ## The single-pin operations -/

/-- Bit j of a word with bit k alone set. -/
theorem getLsbD_one_shiftLeft {j k : Nat} (hk : k < 32) : (1#32 <<< k).getLsbD j = decide (j = k) := by
  rw [← BitVec.twoPow_eq, BitVec.getLsbD_twoPow]
  simp [hk, eq_comm]

/-- BSRR with bit k alone sets bit k. -/
theorem getLsbD_setReset_set {j k : Nat} (odr : Word) (hk : k < 16) :
    (setReset odr (bsrrSetMask (1#32 <<< k)) (bsrrResetMask (1#32 <<< k))).getLsbD j =
      if j = k then true else odr.getLsbD j := by
  have hlo : (1#32 <<< k).getLsbD j = decide (j = k) := getLsbD_one_shiftLeft (by omega)
  have hhi : (1#32 <<< k).getLsbD (16 + j) = false := by
    rw [getLsbD_one_shiftLeft (by omega)]
    exact decide_eq_false (by omega)
  rw [getLsbD_setReset_bsrrMasks, hlo, hhi]
  by_cases hj : j = k
  · simp [hj, hk]
  · simp [hj]

/-- BSRR with bit 16 + k alone clears bit k. -/
theorem getLsbD_setReset_clear {j k : Nat} (odr : Word) (hk : k < 16) :
    (setReset odr (bsrrSetMask (1#32 <<< (16 + k))) (bsrrResetMask (1#32 <<< (16 + k)))).getLsbD j =
      if j = k then false else odr.getLsbD j := by
  have hlo : ¬(j < 16 ∧ (1#32 <<< (16 + k)).getLsbD j = true) := by
    rw [getLsbD_one_shiftLeft (by omega), decide_eq_true_eq]
    omega
  have hhi : (j < 16 ∧ (1#32 <<< (16 + k)).getLsbD (16 + j) = true) ↔ j = k := by
    rw [getLsbD_one_shiftLeft (by omega), decide_eq_true_eq]
    omega
  rw [getLsbD_setReset_bsrrMasks, if_neg hlo]
  exact if_congr hhi rfl rfl

/-- BRR with bit k alone clears bit k. -/
theorem getLsbD_resetOnly_clear {j k : Nat} (odr : Word) (hk : k < 16) :
    (resetOnly odr (brrResetMask (1#32 <<< k))).getLsbD j = if j = k then false else odr.getLsbD j := by
  have hlo : (j < 16 ∧ (1#32 <<< k).getLsbD j = true) ↔ j = k := by
    rw [getLsbD_one_shiftLeft (by omega), decide_eq_true_eq]
    omega
  rw [getLsbD_resetOnly_brrMask]
  exact if_congr hlo rfl rfl

/-- A step that runs a row whose pass starts from ODR v leaves ODR v. -/
theorem step_odr {op : Operation} {rest : List Operation} {v : Word} (hp : s.pending = op :: rest)
    (hf : fetch s op = .ok i) (h : ∃ t, exec i (takeOperation rest s) = .next t ∧
      OnePass { takeOperation rest s with odr := v, rdata := none, events := [] } t) :
    ∃ t, step s = .next t ∧ t.pending = rest ∧ t.odr = v := by
  obtain ⟨t, hexec, hpass⟩ := h
  exact ⟨t, (step_of_fetch hp hf).trans hexec, by rw [hpass.2.2]; rfl, by rw [hpass.2.2]⟩

theorem step_wrBsrr {w : Word} {rest : List Operation} (he : s.peripheralEnabled = true)
    (hp : s.pending = .busWrite 4 0x018 w :: rest) :
    ∃ t, step s = .next t ∧ t.pending = rest ∧ t.odr = setReset s.odr (bsrrSetMask w) (bsrrResetMask w) :=
  step_odr hp (fetch_of_encode (i := .wrBsrr w) rfl rfl he rfl)
    (busWrite_enabled (s := takeOperation rest s) he _
      (fun t => { t with odr := setReset t.odr (bsrrSetMask w) (bsrrResetMask w) }))

theorem step_wrBrr {w : Word} {rest : List Operation} (he : s.peripheralEnabled = true) (hf : s.cfg.family ≠ .f4)
    (hp : s.pending = .busWrite 4 0x028 w :: rest) :
    ∃ t, step s = .next t ∧ t.pending = rest ∧ t.odr = resetOnly s.odr (brrResetMask w) :=
  step_odr hp (fetch_brr_of_ne_f4 he hf w).2 (exec_wrBrr_of_ne_f4 (s := takeOperation rest s) he hf w)

/-- Settles O54: the operand has one bit, in the half of BSRR or BRR that sets or clears pin k. -/
theorem setPinAndClrPinChangeOneOdrBit : Obligations.SetPinAndClrPinChangeOneOdrBit := by
  intro s k rest he hk
  refine ⟨fun hp => ?_, fun hp => ?_, fun hf hp => ?_⟩
  · obtain ⟨t, hstep, hrest, hodr⟩ := step_wrBsrr he hp
    exact ⟨t, hstep, hrest, fun j => by rw [hodr, getLsbD_setReset_set s.odr hk]⟩
  · obtain ⟨t, hstep, hrest, hodr⟩ := step_wrBsrr he hp
    exact ⟨t, hstep, hrest, fun j => by rw [hodr, getLsbD_setReset_clear s.odr hk]⟩
  · obtain ⟨t, hstep, hrest, hodr⟩ := step_wrBrr he hf hp
    exact ⟨t, hstep, hrest, fun j => by rw [hodr, getLsbD_resetOnly_clear s.odr hk]⟩

end Sys2Proof.Machine

/-!
Whole-machine rules: the invariant (O43, O44), the access matrix (O47), the events and the value of a step (O48, O49,
O50). A completed step is idle, or quiet, or one pass over a prepared state (step_outcome); each rule is read off that.
-/
namespace Sys2Proof.Machine

variable {s t u : State} {i : Instr} {op : Operation}

/-! ## The invariant -/

/-- A pass establishes the levels from every prepared state, and leaves what lies above the implemented pins. -/
theorem OnePass.portInv (h : OnePass u t) (hu : Prepared s u) (hs : PortInv s) : PortInv t := by
  obtain ⟨-, hhigh, hlow, -⟩ := hs
  refine ⟨h.levelsHold, fun i hi => ?_, fun i hi => ?_, by rw [h.2.2]⟩
  · rw [h.frame.1, hu.cfg] at hi
    obtain ⟨hidr, hlevel, hdriven⟩ := hhigh i hi
    have hui : u.idr.getLsbD i = false := by
      obtain hu0 | hu0 := hu.idr <;> rw [hu0]
      · exact hidr
      · simp
    refine ⟨?_, ?_, ?_⟩
    · rw [h.1 i, hu.cfg, if_neg (Nat.not_lt.mpr hi), hui]
    · rw [h.2.2]; exact (hu.levelHigh i hi).trans hlevel
    · rw [h.2.2]; exact (hu.drivenHigh i hi).trans hdriven
  · rw [h.frame.1, hu.cfg] at hi
    rw [h.2.1 i, hu.cfg, if_neg (fun hn => Nat.not_lt.mpr hi hn.1), hu.lines.1, hlow i hi]

/-- Every row keeps the invariant. -/
theorem exec_keeps_portInv (hs : PortInv s) (h : exec i s = .next t) : PortInv t := by
  obtain ht | ⟨u, hu, hpass⟩ := exec_next_cases h
  · rw [ht]; exact hs
  · exact hpass.portInv hu hs

/-- Settles O43: a step is idle or runs a row, and every row keeps the invariant. -/
theorem stepKeepsTheInvariant : Obligations.StepKeepsTheInvariant := by
  intro s t hs h
  obtain ⟨-, rfl⟩ | ⟨op, rest, i, -, -, hexec⟩ := step_next_cases h
  · exact hs
  · exact exec_keeps_portInv (s := takeOperation rest s) hs hexec

/-! ## What an operation can write -/

/-- The access matrix on external drive, control flags and stored registers (10_state.md R46). -/
def WritesOnly (op : Operation) (s t : State) : Prop :=
  ((∀ i v, op ≠ .linePin i v) → t.externalLevel = s.externalLevel ∧ t.externalDriven = s.externalDriven) ∧
  ((∀ v, op ≠ .lineReset v) →
    t.resetAsserted = s.resetAsserted ∧
    ((∀ w, op ≠ .busWrite 4 0x000 w) → t.moder = s.moder) ∧
    ((∀ w, op ≠ .busWrite 4 0x004 w) → t.otyper = s.otyper) ∧
    ((∀ w, op ≠ .busWrite 4 0x008 w) → t.ospeedr = s.ospeedr) ∧
    ((∀ w, op ≠ .busWrite 4 0x00C w) → t.pupdr = s.pupdr) ∧
    ((∀ w, op ≠ .busWrite 4 0x01C w) → t.lckr = s.lckr) ∧
    ((∀ w, op ≠ .busWrite 4 0x020 w) → t.afrl = s.afrl) ∧
    ((∀ w, op ≠ .busWrite 4 0x024 w) → t.afrh = s.afrh) ∧
    ((∀ w, op ≠ .busWrite 4 0x014 w ∧ op ≠ .busWrite 4 0x018 w ∧ op ≠ .busWrite 4 0x028 w) → t.odr = s.odr)) ∧
  ((∀ v, op ≠ .lineEnable v) → t.peripheralEnabled = s.peripheralEnabled)

/-- Where no register is written, what is left of the matrix is the lines. -/
theorem writesOnly_of_registers_kept
    (hreg : t = { t with
      moder := s.moder, otyper := s.otyper, ospeedr := s.ospeedr, pupdr := s.pupdr, odr := s.odr, lckr := s.lckr
      afrl := s.afrl, afrh := s.afrh })
    (hpin : (∀ i v, op ≠ .linePin i v) → t.externalLevel = s.externalLevel ∧ t.externalDriven = s.externalDriven)
    (hreset : (∀ v, op ≠ .lineReset v) → t.resetAsserted = s.resetAsserted)
    (henable : (∀ v, op ≠ .lineEnable v) → t.peripheralEnabled = s.peripheralEnabled) : WritesOnly op s t := by
  refine ⟨hpin, fun h => ⟨hreset h, ?_⟩, henable⟩
  rw [hreg]
  simp

/-- A bus write, by the offset it names. -/
theorem writesOnly_busWrite {o : Offset} {w : Word} (hs : StoresAt o s t) (hl : KeepsLines s t) :
    WritesOnly (.busWrite 4 o.toNat w) s t := by
  obtain ⟨hmoder, hotyper, hospeedr, hpupdr, hlckr, hafrl, hafrh, hodr⟩ := hs
  obtain ⟨hlevel, hdriven, hreset, henable⟩ := hl
  have hoff : ∀ o' : Offset, (∀ w', Operation.busWrite 4 o.toNat w ≠ .busWrite 4 o'.toNat w') → o ≠ o' := by
    rintro o' h rfl
    exact h w rfl
  exact ⟨fun _ => ⟨hlevel, hdriven⟩, fun _ => ⟨hreset, fun h => hmoder (hoff _ h), fun h => hotyper (hoff _ h),
    fun h => hospeedr (hoff _ h), fun h => hpupdr (hoff _ h), fun h => hlckr (hoff _ h), fun h => hafrl (hoff _ h),
    fun h => hafrh (hoff _ h), fun h => hodr ⟨hoff _ fun w' => (h w').1, hoff _ fun w' => (h w').2.1,
      hoff _ fun w' => (h w').2.2⟩⟩, fun _ => henable⟩

/-- A pass writes nothing that the matrix names. -/
theorem OnePass.writesOnly (h : OnePass u t) (hu : WritesOnly op s u) : WritesOnly op s t := by
  rw [h.2.2]
  exact hu

/-! ## What a completed operation did -/

/-- A completed operation either runs no pass and changes the outputs only, or hands a prepared state, in which it has
written what the access matrix allows, to one pass. -/
inductive CompletedAs (op : Operation) (s t : State) : Prop
  | quiet (hrun : runsPass s op = false) (hframe : t = { s with rdata := t.rdata, events := t.events })
      (hdata : t.rdata.isSome = true ↔ ∃ size offset, op = .busRead size offset) (hown : OwnEvents t.events)
  | pass (u : State) (hrun : runsPass s op = true) (hprep : Prepared s u) (hwrites : WritesOnly op s u)
      (hpass : OnePass u t)

theorem ReadOutput.completedAs {size : Nat} {offset : Int} (h : ReadOutput s t) :
    CompletedAs (.busRead size offset) s t := by
  obtain ⟨v, es, rfl, hes⟩ := h
  exact .quiet rfl rfl (by simp) (hes.imp_right fun ⟨o, ho⟩ => ⟨o, .inr (.inl ho)⟩)

/-- A held line is quiet. -/
theorem completedAs_startOperation (hrun : runsPass s op = false) (hop : ∀ size offset, op ≠ .busRead size offset) :
    CompletedAs op s (startOperation s) :=
  .quiet hrun rfl (by simpa using hop) (.inl rfl)

/-- A row that a read selector of an enabled port selects is one of the enabled reads. -/
theorem isEnabledRead_of_encode {c : DecodeContext} {sel : BitVec 11} (he : c.enabled = true)
    (hc : rowCondition c i = true) (hi : encode i = some (.bus sel none)) : isEnabledRead i = true := by
  cases i <;> simp_all [encode, rowCondition, isEnabledRead]

/-- A row that a write selector of an enabled port selects is one of the enabled writes. -/
theorem isEnabledWrite_of_encode {c : DecodeContext} {sel : BitVec 11} {w : Word} (he : c.enabled = true)
    (hc : rowCondition c i = true) (hi : encode i = some (.bus sel (some w))) : isEnabledWrite i = true := by
  cases i <;> simp_all [encode, rowCondition, isEnabledWrite]

theorem exec_decodeRead_outcome {o : Offset} (h : exec (decodeRead (decodeContext s) o) s = .next t) :
    CompletedAs (.busRead 4 o.toNat) s t := by
  obtain ⟨-, hc, hi⟩ := selectedBy_decodeRead (decodeContext s) o
  cases he : s.peripheralEnabled with
  | false =>
    have hrow : decodeRead (decodeContext s) o = .rdDisabled o := by simp [decodeRead, decodeContext, he]
    rw [hrow] at h
    obtain rfl := Host.Outcome.next.inj h
    exact .quiet rfl rfl (by simp [disabledRead]) (.inr ⟨o, .inl rfl⟩)
  | true =>
    obtain ⟨t', hexec, hout⟩ := exec_read_enabled he (isEnabledRead_of_encode (c := decodeContext s) he hc hi)
    obtain rfl := Host.Outcome.next.inj (hexec.symm.trans h)
    exact hout.completedAs

/-- A write row writes at the offset of its own encoded form. -/
theorem WriteRow.offset_eq {o o' : Offset} {f : State → State} {w : Word} (row : WriteRow i o' f)
    (h : encode i = some (.bus (busSelector true o) (some w))) : o' = o := by
  obtain ⟨w', hw'⟩ := row.encoded
  rw [hw'] at h
  injection h with h
  injection h with h
  exact busSelector_injective h

theorem exec_decodeWrite_outcome {o : Offset} {w : Word} (h : exec (decodeWrite (decodeContext s) o w) s = .next t) :
    CompletedAs (.busWrite 4 o.toNat w) s t := by
  obtain ⟨-, hc, hi⟩ := selectedBy_decodeWrite (decodeContext s) o w
  cases he : s.peripheralEnabled with
  | false =>
    have hrow : decodeWrite (decodeContext s) o w = .wrDisabled o w := by simp [decodeWrite, decodeContext, he]
    rw [hrow] at h
    obtain rfl := Host.Outcome.next.inj h
    exact .quiet he rfl (by simp [disabledWrite]) (.inr ⟨o, .inl rfl⟩)
  | true =>
    obtain ⟨o', f, row⟩ := exec_enabledWrite (isEnabledWrite_of_encode (c := decodeContext s) he hc hi)
    obtain rfl := row.offset_eq hi
    obtain ⟨t', hexec, hpass⟩ := busWrite_enabled he o' f
    obtain rfl := Host.Outcome.next.inj (((row.runs s).trans hexec).symm.trans h)
    exact .pass _ he (row.prepares s) (writesOnly_busWrite (row.stores s) (row.lines s)) hpass

/-- RESET(v): an edge prepares one pass over the flag and, when asserting, the registers; any other level is held. -/
theorem exec_lineReset_outcome {v : Int} (hf : fetch s (.lineReset v) = .ok i) (h : exec i s = .next t) :
    CompletedAs (.lineReset v) s t := by
  by_cases hv : lineLevel v = s.resetAsserted
  · rw [fetch_lineReset_of_eq hv] at hf
    obtain rfl := Except.ok.inj hf
    obtain rfl := Host.Outcome.next.inj h
    exact completedAs_startOperation (by simp [runsPass, hv]) nofun
  · have hrun : runsPass s (.lineReset v) = true := bne_iff_ne.mpr hv
    rw [fetch_lineReset_of_ne hv] at hf
    cases hr : s.resetAsserted with
    | false =>
      obtain rfl : Instr.resetAssert = i := by simpa [hr] using hf
      obtain ⟨t', hexec, hpass⟩ := exec_resetAssert_released hr
      obtain rfl := Host.Outcome.next.inj (hexec.symm.trans h)
      exact .pass (resetPrepared s) hrun
        ⟨rfl, rfl, .inr rfl, ⟨rfl, rfl⟩, fun _ _ => rfl, fun _ _ => rfl, rfl, .inl rfl⟩
        ⟨fun _ => ⟨rfl, rfl⟩, fun h => absurd rfl (h v), fun _ => rfl⟩ hpass
    | true =>
      obtain rfl : Instr.resetDeassert = i := by simpa [hr] using hf
      obtain ⟨t', hexec, hpass⟩ := exec_resetDeassert_asserted hr
      obtain rfl := Host.Outcome.next.inj (hexec.symm.trans h)
      exact .pass (setResetAsserted false (startOperation s)) hrun
        ⟨rfl, rfl, .inl rfl, ⟨rfl, rfl⟩, fun _ _ => rfl, fun _ _ => rfl, rfl, .inl rfl⟩
        (writesOnly_of_registers_kept rfl (fun _ => ⟨rfl, rfl⟩) (fun h => absurd rfl (h v)) fun _ => rfl) hpass

/-- ENABLE(v): a new level prepares one pass over the flag; any other is held. -/
theorem exec_lineEnable_outcome {v : Int} (hf : fetch s (.lineEnable v) = .ok i) (h : exec i s = .next t) :
    CompletedAs (.lineEnable v) s t := by
  by_cases hv : lineLevel v = s.peripheralEnabled
  · rw [fetch_lineEnable_of_eq hv] at hf
    obtain rfl := Except.ok.inj hf
    obtain rfl := Host.Outcome.next.inj h
    exact completedAs_startOperation (by simp [runsPass, hv]) nofun
  · rw [fetch_lineEnable_of_ne hv] at hf
    obtain rfl := Except.ok.inj hf
    obtain ⟨t', hexec, hpass⟩ := exec_enableChange_of_ne (s := s) (level := !s.peripheralEnabled) (by simp)
    obtain rfl := Host.Outcome.next.inj (hexec.symm.trans h)
    exact .pass (setEnabled (!s.peripheralEnabled) (startOperation s)) (bne_iff_ne.mpr hv)
      ⟨rfl, rfl, .inl rfl, ⟨rfl, rfl⟩, fun _ _ => rfl, fun _ _ => rfl, rfl, .inl rfl⟩
      (writesOnly_of_registers_kept rfl (fun _ => ⟨rfl, rfl⟩) (fun _ => rfl) fun h => absurd rfl (h v)) hpass

/-- PIN(k, v) inside the port prepares one pass over pin k's drive. -/
theorem exec_linePin_outcome {k v : Int} (hf : fetch s (.linePin k v) = .ok i) (h : exec i s = .next t) :
    CompletedAs (.linePin k v) s t := by
  cases hk : pinIndexOk s.cfg.pinCount.val k with
  | false =>
    rw [fetch_linePin_bad (pinIndexOk_eq_false.mp hk)] at hf
    obtain rfl := Except.ok.inj hf
    cases h
  | true =>
    obtain ⟨n, rfl, hn⟩ := pinIndexOk_iff.mp hk
    rw [fetch_linePin_ok hn] at hf
    have hi : i ∈ [Instr.pinFloat n, Instr.pinLow n, Instr.pinHigh n] := by
      rw [← Except.ok.inj hf]
      split_ifs <;> simp
    obtain ⟨level, driven, t', row, hexec, hpass⟩ := exec_pinRow_inRange hi hn
    obtain rfl := Host.Outcome.next.inj (hexec.symm.trans h)
    exact .pass (driveWith level driven (startOperation s)) rfl
      ⟨rfl, rfl, .inl rfl, ⟨rfl, rfl⟩, fun j hj => row.level _ j (by omega), fun j hj => row.driven _ j (by omega),
        rfl, .inl rfl⟩
      (writesOnly_of_registers_kept rfl (fun h => absurd rfl (h _ v)) (fun _ => rfl) fun _ => rfl) hpass

/-- What any operation that completes did. -/
theorem exec_outcome (hf : fetch s op = .ok i) (h : exec i s = .next t) : CompletedAs op s t := by
  cases op with
  | busRead size offset =>
    cases hd : deliverable size offset with
    | false => rw [fetch_busRead_undeliverable hd] at hf; cases hf
    | true =>
      obtain ⟨rfl, o, rfl⟩ := exists_offset_of_deliverable hd
      rw [fetch_busRead] at hf
      obtain rfl := Except.ok.inj hf
      exact exec_decodeRead_outcome h
  | busWrite size offset w =>
    cases hd : deliverable size offset with
    | false => rw [fetch_busWrite_undeliverable hd] at hf; cases hf
    | true =>
      obtain ⟨rfl, o, rfl⟩ := exists_offset_of_deliverable hd
      rw [fetch_busWrite] at hf
      obtain rfl := Except.ok.inj hf
      exact exec_decodeWrite_outcome h
  | lineReset v => exact exec_lineReset_outcome hf h
  | lineEnable v => exact exec_lineEnable_outcome hf h
  | linePin k v => exact exec_linePin_outcome hf h

/-- Whether an operation runs a pass does not depend on the queue. -/
theorem runsPass_takeOperation (rest : List Operation) : runsPass (takeOperation rest s) op = runsPass s op := by
  cases op <;> rfl

/-- What a step that completes did with its operation. -/
theorem step_outcome {rest : List Operation} (hp : s.pending = op :: rest) (h : step s = .next t) :
    CompletedAs op (takeOperation rest s) t := by
  obtain ⟨hnil, -⟩ | ⟨op', rest', i, hp', hf, hexec⟩ := step_next_cases h
  · rw [hp] at hnil; cases hnil
  · obtain ⟨rfl, rfl⟩ : op = op' ∧ rest = rest' := by simpa [hp] using hp'
    exact exec_outcome hf hexec

/-- Settles O47: a quiet operation writes outputs only, a pass writes nothing the matrix names, and what is prepared for
it is the operation's own. -/
theorem onlyTheNamedOperationsWriteEachState : Obligations.OnlyTheNamedOperationsWriteEachState := by
  intro s t op rest hp h
  suffices hall : WritesOnly op s t ∧ (runsPass s op = false →
      t.idr = s.idr ∧ t.pinChangedLevel = s.pinChangedLevel ∧ t.stateChangedLevel = s.stateChangedLevel) from
    ⟨hall.1.1, hall.1.2.1, hall.1.2.2, hall.2⟩
  cases step_outcome hp h with
  | quiet hrun hframe hdata hown =>
    rw [hframe]
    exact ⟨writesOnly_of_registers_kept rfl (fun _ => ⟨rfl, rfl⟩) (fun _ => rfl) fun _ => rfl, fun _ => ⟨rfl, rfl, rfl⟩⟩
  | pass u hrun hprep hwrites hpass =>
    rw [runsPass_takeOperation] at hrun
    exact ⟨hpass.writesOnly hwrites, fun hno => absurd (hrun.symm.trans hno) nofun⟩

/-! ## The events and the value of a step -/

/-- Settles O50: only a quiet operation can return a value, and the prepared state of a pass has none. -/
theorem onlyReadsReturnData : Obligations.OnlyReadsReturnData := by
  intro s t op rest hp h
  cases step_outcome hp h with
  | quiet hrun hframe hdata hown => exact hdata
  | pass u hrun hprep hwrites hpass =>
    have hnone : t.rdata = none := by rw [hpass.2.2]; exact hprep.rdata
    have hnot : ¬∃ size offset, op = .busRead size offset := by
      rintro ⟨size, offset, rfl⟩
      cases hrun
    simp [hnone, hnot]

/-- A pin that is shorted is in OUTPUT mode, a pin that is notified in INPUT mode, so no pin emits both. -/
theorem pinEvents_cases (s : State) (i : Nat) :
    pinEvents s i = [] ∨ pinEvents s i = [.diag (.short i)] ∨ ∃ b, pinEvents s i = [.pinChanged i b] := by
  cases hs : isShorted s i with
  | false => cases hn : isNotified s i <;> simp [pinEvents, hs, hn]
  | true =>
    have hn : isNotified s i = false := by simp [isNotified, (isShorted_iff.mp hs).1]
    simp [pinEvents, hs, hn]

/-- The events of a step: the operation's own, then, if it runs a pass, the pins' and the pulse. -/
theorem step_events {rest : List Operation} (hp : s.pending = op :: rest) (h : step s = .next t) :
    ∃ own, OwnEvents own ∧ ∃ u, t.events = own ++
      if runsPass s op then (List.range s.cfg.pinCount.val).flatMap (pinEvents u) ++ pulseEvents else [] := by
  cases step_outcome hp h with
  | quiet hrun hframe hdata hown =>
    rw [runsPass_takeOperation] at hrun
    exact ⟨t.events, hown, s, by simp [hrun]⟩
  | pass u hrun hprep hwrites hpass =>
    rw [runsPass_takeOperation] at hrun
    refine ⟨u.events, hprep.ownEvents, u, ?_⟩
    rw [hpass.events_eq, passEvents, hprep.cfg, if_pos hrun]
    rfl

/-- Settles O49: the three parts of a step's events. -/
theorem eventsComeInTheFixedOrder : Obligations.EventsComeInTheFixedOrder := by
  intro s t op rest hp h
  obtain ⟨own, hown, u, hev⟩ := step_events hp h
  exact ⟨own, pinEvents u, hown, pinEvents_cases u, hev⟩

/-- An event of the pulse occurs in a step once if a pass runs, else never. -/
theorem count_pulse_step {rest : List Operation} {e : Event} (hp : s.pending = op :: rest) (h : step s = .next t)
    (he : e ∈ pulseEvents) (hone : pulseEvents.count e = 1) : t.events.count e = if runsPass s op then 1 else 0 := by
  obtain ⟨own, hown, u, hev⟩ := step_events hp h
  have hzero := List.count_eq_zero_of_not_mem (hown.pulse_notMem he)
  rw [hev, List.count_append, hzero, Nat.zero_add]
  split
  · rw [List.count_append, List.count_eq_zero_of_not_mem (pulse_notMem_pinEvents he _), hone]
  · rfl

/-- Settles O48: the pulse closes a pass, and nothing else emits it. -/
theorem pulseExactlyWhenAPassRuns : Obligations.PulseExactlyWhenAPassRuns := by
  intro s t op rest hp h
  exact ⟨count_pulse_step hp h (by decide) rfl, count_pulse_step hp h (by decide) rfl⟩

/-! ## The levels of a step -/

/-- A step keeps the levels, and establishes them where its operation runs a pass. -/
theorem step_levelsHold {rest : List Operation} (hp : s.pending = op :: rest) (h : step s = .next t)
    (hs : LevelsHold s ∨ runsPass s op = true) : LevelsHold t := by
  cases step_outcome hp h with
  | quiet hrun hframe hdata hown =>
    rw [runsPass_takeOperation] at hrun
    obtain hl | hyes := hs
    · rw [hframe]; exact hl
    · exact absurd (hyes.symm.trans hrun) nofun
  | pass u hrun hprep hwrites hpass => exact hpass.levelsHold

/-- Settles O44: the level is that function of the inputs, a step keeps the levels, and a pass establishes them. -/
theorem idrIsAFunctionOfItsInputs : Obligations.IdrIsAFunctionOfItsInputs := by
  intro s t h
  refine ⟨fun hl i hi => ?_, fun op rest hp hrun => step_levelsHold hp h (.inr hrun)⟩
  have ht : LevelsHold t := by
    cases hp : s.pending with
    | nil =>
      obtain rfl := Host.Outcome.next.inj ((step_of_pending_nil hp).symm.trans h)
      exact hl
    | cons op rest => exact step_levelsHold hp h (.inl hl)
  exact ht i hi

end Sys2Proof.Machine

/-!
Noninterference: the opaque registers (O51) and the control flags (O52). A pass looks at neither and is a function of
the state it starts from, so a row that hands on what it does not look at does the same whatever they hold.
-/
namespace Sys2Proof.Machine

variable {s t u : State} {i : Instr} {op : Operation}

/-! ## A pass -/

/-- A pass is a function of the state it starts from. -/
theorem OnePass.unique {t' : State} (h : OnePass u t) (h' : OnePass u t') : t = t' := by
  have hidr : t.idr = t'.idr := BitVec.eq_of_getLsbD_eq fun i _ => (h.1 i).trans (h'.1 i).symm
  have hlines : t.pinChangedLevel = t'.pinChangedLevel :=
    BitVec.eq_of_getLsbD_eq fun i _ => (h.2.1 i).trans (h'.2.1 i).symm
  rw [h.2.2, h'.2.2, hidr, hlines]

/-- Resolution does not look at the opaque registers. -/
theorem OnePass.blankOpaque (h : OnePass u t) : OnePass (blankOpaque u) (blankOpaque t) := by
  refine ⟨h.1, h.2.1, ?_⟩
  rw [h.2.2]
  rfl

theorem blankOpaque_resolvePins_congr (h : blankOpaque t = blankOpaque u) :
    blankOpaque (resolvePins t) = blankOpaque (resolvePins u) := by
  have ht := (resolvePins_onePass t).blankOpaque
  rw [h] at ht
  exact ht.unique (resolvePins_onePass u).blankOpaque

/-! ## The opaque registers -/

/-- Row i does the same from s and from s blanked, the opaque registers aside. -/
def BlindTo (i : Instr) (s : State) : Prop :=
  ∀ t, exec i s = .next t → ∃ t', exec i (blankOpaque s) = .next t' ∧ blankOpaque t' = blankOpaque t

theorem blindTo_of_next {g : State → State} (hr : ∀ s, exec i s = .next (g s))
    (hg : blankOpaque (g (blankOpaque s)) = blankOpaque (g s)) : BlindTo i s := by
  intro t h
  obtain rfl := Host.Outcome.next.inj ((hr s).symm.trans h)
  exact ⟨_, hr _, hg⟩

theorem blindTo_of_busRead {o : Offset} {f : State → State} (hr : ∀ s, exec i s = busRead o f s)
    (hf : ∀ s, blankOpaque (f (blankOpaque s)) = blankOpaque (f s)) : BlindTo i s := by
  refine blindTo_of_next hr ?_
  change blankOpaque (if s.peripheralEnabled = true then _ else _) = _
  cases s.peripheralEnabled with
  | false => rfl
  | true => exact hf (startOperation s)

theorem blindTo_of_busWrite {o : Offset} {f : State → State} (hr : ∀ s, exec i s = busWrite o f s)
    (hf : ∀ s, blankOpaque (f (blankOpaque s)) = blankOpaque (f s)) : BlindTo i s := by
  refine blindTo_of_next hr ?_
  change blankOpaque (if s.peripheralEnabled = true then _ else _) = _
  cases s.peripheralEnabled with
  | false => rfl
  | true => exact blankOpaque_resolvePins_congr (hf (startOperation s))

/-- A pin event rewrites the drive vectors alone. -/
theorem blindTo_of_pinRow {k : Nat} (hi : i ∈ [Instr.pinFloat k, Instr.pinLow k, Instr.pinHigh k]) : BlindTo i s := by
  obtain ⟨level, driven, row⟩ := exec_pinRow hi
  intro t h
  rw [row.runs] at h
  by_cases hk : k < s.cfg.pinCount.val
  · rw [pinEvent, if_pos hk] at h
    obtain rfl := Host.Outcome.next.inj h
    exact ⟨_, (row.runs _).trans (if_pos hk), blankOpaque_resolvePins_congr rfl⟩
  · rw [pinEvent_outOfRange (Nat.le_of_not_lt hk)] at h
    cases h

theorem blankOpaque_readBrrOffset (s : State) :
    blankOpaque (readBrrOffset (blankOpaque s)) = blankOpaque (readBrrOffset s) := by
  change blankOpaque (if s.cfg.family = .f4 then _ else _) = blankOpaque (if s.cfg.family = .f4 then _ else _)
  split <;> rfl

theorem blankOpaque_writeBrrOffset (w : Word) (s : State) :
    blankOpaque (writeBrrOffset w (blankOpaque s)) = blankOpaque (writeBrrOffset w s) := by
  change blankOpaque (if s.cfg.family = .f4 then _ else _) = blankOpaque (if s.cfg.family = .f4 then _ else _)
  split <;> rfl

/-- The rows that read an opaque register. -/
def opaqueReads : List Instr := [.rdOtyper, .rdOspeedr, .rdLckr, .rdAfrl, .rdAfrh]

theorem mem_opaqueReads :
    i ∈ opaqueReads ↔ i = .rdOtyper ∨ i = .rdOspeedr ∨ i = .rdLckr ∨ i = .rdAfrl ∨ i = .rdAfrh := by
  simp [opaqueReads]

/-- No row but their own reads looks at the opaque registers. -/
theorem blindTo_of_notMem_opaqueReads (hi : i ∉ opaqueReads) : BlindTo i s := by
  cases i with
  | rdOtyper | rdOspeedr | rdLckr | rdAfrl | rdAfrh => exact absurd (by simp [mem_opaqueReads]) hi
  | rdDisabled o => exact blindTo_of_next (fun _ => rfl) rfl
  | rdModer => exact blindTo_of_busRead (f := fun t => returnData t.moder t) (fun _ => rfl) fun _ => rfl
  | rdPupdr => exact blindTo_of_busRead (f := fun t => returnData t.pupdr t) (fun _ => rfl) fun _ => rfl
  | rdIdr => exact blindTo_of_busRead (f := fun t => returnData t.idr t) (fun _ => rfl) fun _ => rfl
  | rdOdr => exact blindTo_of_busRead (f := fun t => returnData t.odr t) (fun _ => rfl) fun _ => rfl
  | rdBsrr => exact blindTo_of_busRead (f := returnData 0) (fun _ => rfl) fun _ => rfl
  | rdBrr | rdBrrF4 => exact blindTo_of_busRead (fun _ => rfl) blankOpaque_readBrrOffset
  | rdBad o => exact blindTo_of_busRead (f := badRead o) (fun _ => rfl) fun _ => rfl
  | wrDisabled o w => exact blindTo_of_next (fun _ => rfl) rfl
  | wrModer w => exact blindTo_of_busWrite (f := fun t => { t with moder := w }) (fun _ => rfl) fun _ => rfl
  | wrOtyper w => exact blindTo_of_busWrite (f := fun t => { t with otyper := w }) (fun _ => rfl) fun _ => rfl
  | wrOspeedr w => exact blindTo_of_busWrite (f := fun t => { t with ospeedr := w }) (fun _ => rfl) fun _ => rfl
  | wrPupdr w => exact blindTo_of_busWrite (f := fun t => { t with pupdr := w }) (fun _ => rfl) fun _ => rfl
  | wrIdr w => exact blindTo_of_busWrite (f := diag (.readOnly (regOffset .idr))) (fun _ => rfl) fun _ => rfl
  | wrOdr w => exact blindTo_of_busWrite (f := fun t => { t with odr := w }) (fun _ => rfl) fun _ => rfl
  | wrBsrr w =>
    exact blindTo_of_busWrite (f := fun t => { t with odr := setReset t.odr (bsrrSetMask w) (bsrrResetMask w) })
      (fun _ => rfl) fun _ => rfl
  | wrLckr w => exact blindTo_of_busWrite (f := fun t => { t with lckr := w }) (fun _ => rfl) fun _ => rfl
  | wrAfrl w => exact blindTo_of_busWrite (f := fun t => { t with afrl := w }) (fun _ => rfl) fun _ => rfl
  | wrAfrh w => exact blindTo_of_busWrite (f := fun t => { t with afrh := w }) (fun _ => rfl) fun _ => rfl
  | wrBrr w | wrBrrF4 w => exact blindTo_of_busWrite (fun _ => rfl) (blankOpaque_writeBrrOffset w)
  | wrBad o w => exact blindTo_of_busWrite (f := diag (.badOffset o)) (fun _ => rfl) fun _ => rfl
  | resetAssert =>
    refine blindTo_of_next (fun _ => rfl) ?_
    change blankOpaque (if s.resetAsserted = true then _ else _) = _
    cases s.resetAsserted with
    | false => exact blankOpaque_resolvePins_congr rfl
    | true => rfl
  | resetDeassert =>
    refine blindTo_of_next (fun _ => rfl) ?_
    change blankOpaque (if s.resetAsserted = true then _ else _) = _
    cases s.resetAsserted with
    | false => rfl
    | true => exact blankOpaque_resolvePins_congr rfl
  | resetHold level => exact blindTo_of_next (fun _ => rfl) rfl
  | enableChange level =>
    refine blindTo_of_next (fun _ => rfl) ?_
    change blankOpaque (if level = s.peripheralEnabled then _ else _) =
      blankOpaque (if level = s.peripheralEnabled then _ else _)
    split
    · rfl
    · exact blankOpaque_resolvePins_congr rfl
  | enableHold level => exact blindTo_of_next (fun _ => rfl) rfl
  | pinBadindex k cls => intro t h; cases h
  | pinFloat k | pinLow k | pinHigh k => exact blindTo_of_pinRow (k := k) (by simp)
  | resolve => exact blindTo_of_next (fun _ => rfl) (blankOpaque_resolvePins_congr rfl)

/-- A read of any value differs in the value returned only. -/
theorem busRead_blankOpaque {o : Offset} (g : State → Word) (h : busRead o (fun t => returnData (g t) t) s = .next t) :
    ∃ t', busRead o (fun t => returnData (g t) t) (blankOpaque s) = .next t' ∧
      { blankOpaque t' with rdata := none } = { blankOpaque t with rdata := none } := by
  cases he : s.peripheralEnabled with
  | false =>
    rw [busRead_disabled he] at h
    obtain rfl := Host.Outcome.next.inj h
    exact ⟨_, busRead_disabled (s := blankOpaque s) he o _, rfl⟩
  | true =>
    rw [busRead_enabled he] at h
    obtain rfl := Host.Outcome.next.inj h
    exact ⟨_, busRead_enabled (s := blankOpaque s) he o _, rfl⟩

theorem exec_opaqueRead_blankOpaque (hi : i ∈ opaqueReads) (h : exec i s = .next t) :
    ∃ t', exec i (blankOpaque s) = .next t' ∧
      { blankOpaque t' with rdata := none } = { blankOpaque t with rdata := none } := by
  obtain rfl | rfl | rfl | rfl | rfl := mem_opaqueReads.mp hi
  · exact busRead_blankOpaque State.otyper h
  · exact busRead_blankOpaque State.ospeedr h
  · exact busRead_blankOpaque State.lckr h
  · exact busRead_blankOpaque State.afrl h
  · exact busRead_blankOpaque State.afrh h

/-- A read selector is that of the one read operation with its offset. -/
theorem eq_busRead_of_encodingOf {c : DecodeContext} {sel : BitVec 11} (h : encodingOf c op = .ok (.bus sel none)) :
    op = .busRead 4 ((sel.setWidth 10).toNat : Int) := by
  cases op with
  | busRead size offset =>
    rw [encodingOf] at h
    split at h
    next hd =>
      obtain ⟨rfl, o, rfl⟩ := exists_offset_of_deliverable hd
      obtain rfl : busSelector false o = sel := by simpa using h
      rw [setWidth_busSelector]
    next => cases h
  | busWrite size offset w => rw [encodingOf] at h; split at h <;> cases h
  | lineReset v => cases h
  | lineEnable v => cases h
  | linePin k v => cases h

/-- The operation whose row reads an opaque register is the read of that register's offset. -/
theorem exists_offset_of_fetch_opaqueRead (hi : i ∈ opaqueReads) (hf : fetch s op = .ok i) :
    ∃ o ∈ [(0x004 : Int), 0x008, 0x01C, 0x020, 0x024], op = .busRead 4 o := by
  obtain ⟨-, -, e, he, henc⟩ := decodedRowEncodesBack s op i hf
  obtain rfl | rfl | rfl | rfl | rfl := mem_opaqueReads.mp hi
  all_goals
    obtain rfl := Option.some.inj henc
    exact ⟨_, by decide, eq_busRead_of_encodingOf he⟩

/-- Settles O51: decoding does not look at the opaque registers, no row but their own reads does, and those differ in
the value only. -/
theorem opaqueRegistersInfluenceNothing : Obligations.OpaqueRegistersInfluenceNothing := by
  intro s t h
  obtain ⟨hp, rfl⟩ | ⟨op, rest, i, hp, hf, hexec⟩ := step_next_cases h
  · exact ⟨_, step_of_pending_nil (s := blankOpaque s) hp, rfl, fun _ => rfl⟩
  · have hstep : step (blankOpaque s) = exec i (blankOpaque (takeOperation rest s)) :=
      step_of_fetch (s := blankOpaque s) hp hf
    rw [hstep]
    by_cases hi : i ∈ opaqueReads
    · obtain ⟨t', hexec', heq⟩ := exec_opaqueRead_blankOpaque hi hexec
      obtain ⟨o, ho, rfl⟩ := exists_offset_of_fetch_opaqueRead hi hf
      exact ⟨t', hexec', heq, fun hno => absurd hp (hno o ho rest)⟩
    · obtain ⟨t', hexec', heq⟩ := blindTo_of_notMem_opaqueReads hi t hexec
      exact ⟨t', hexec', by rw [heq], fun _ => (congrArg State.rdata heq :)⟩

/-! ## The control flags -/

/-- Resolution does not look at the control flags (decisions D5, D11). -/
theorem OnePass.setFlags (h : OnePass u t) (en ra : Bool) :
    OnePass (setEnabled en (setResetAsserted ra u)) (setEnabled en (setResetAsserted ra t)) := by
  refine ⟨h.1, h.2.1, ?_⟩
  rw [h.2.2]
  rfl

theorem resolvePins_setFlags (en ra : Bool) (u : State) :
    resolvePins (setEnabled en (setResetAsserted ra u)) = setEnabled en (setResetAsserted ra (resolvePins u)) :=
  (resolvePins_onePass _).unique ((resolvePins_onePass u).setFlags en ra)

/-- Settles O52: the flags are kept from the start of the operation through the drive of the pin to the pass. -/
theorem passIgnoresTheControlFlags : Obligations.PassIgnoresTheControlFlags := by
  intro s en ra k op hop t h
  obtain rfl | hpin : op = .resolve ∨ op ∈ [Instr.pinFloat k, Instr.pinLow k, Instr.pinHigh k] := by
    simpa using hop
  · obtain rfl := Host.Outcome.next.inj h
    exact congrArg Host.Outcome.next (resolvePins_setFlags en ra (startOperation s))
  · obtain ⟨level, driven, row⟩ := exec_pinRow hpin
    rw [row.runs] at h ⊢
    by_cases hk : k < s.cfg.pinCount.val
    · rw [pinEvent, if_pos hk] at h ⊢
      obtain rfl := Host.Outcome.next.inj h
      exact congrArg Host.Outcome.next (resolvePins_setFlags en ra (driveWith level driven (startOperation s)))
    · rw [pinEvent_outOfRange (Nat.le_of_not_lt hk)] at h
      cases h

end Sys2Proof.Machine

/-!
Proofs about a pass seen twice or pin by pin (O29, O30, O53), a pin that floats or is driven (O36, O37) and what
determines IDR (O55). A pin's lane is a function of its six inputs; a lane whose IDR bit is its level is quiet.
-/
namespace Sys2Proof.Machine

open Laws

variable {s t u : State}

/-! ## One lane of a pass -/

/-- The level of a pin is a function of its five inputs (42_resolve.md R161). -/
theorem pinLevel_of_inputs {i : Nat} (hm : modeOf s i = modeOf u i) (hp : pullOf s i = pullOf u i)
    (ho : s.odr.getLsbD i = u.odr.getLsbD i) (hl : s.externalLevel.getLsbD i = u.externalLevel.getLsbD i)
    (hd : s.externalDriven.getLsbD i = u.externalDriven.getLsbD i) : pinLevel s i = pinLevel u i := by
  simp only [pinLevel, hm, hp, ho, hl, hd]

/-- A pass that starts without events reports the shorts of its implemented pins. -/
theorem OnePass.short_mem_iff (h : OnePass u t) (hu : u.events = []) (i : Nat) :
    Event.diag (.short i) ∈ t.events ↔ i < u.cfg.pinCount.val ∧ isShorted u i = true := by
  rw [h.events_eq, hu, List.nil_append, ← List.count_pos_iff, count_short_passEvents]
  split <;> simp [*]

/-- A pass that starts without events notifies the levels its edge detector selects. -/
theorem OnePass.pinChanged_mem_iff (h : OnePass u t) (hu : u.events = []) (i : Nat) (b : Bool) :
    Event.pinChanged i b ∈ t.events ↔ (i < u.cfg.pinCount.val ∧ isNotified u i = true) ∧ pinLevel u i = b := by
  rw [h.events_eq, hu, List.nil_append, pinChanged_mem_passEvents]

/-- A pass ends with the pulse (42_resolve.md R167). -/
theorem OnePass.events_end (h : OnePass u t) : ∃ es, t.events = es ++ [.stateChangedRise, .stateChangedFall] :=
  ⟨_, h.events_eq.trans (List.append_assoc _ _ _).symm⟩

/-- A pass moves nothing of a pin whose IDR bit is its level, nor of a pin that is not implemented. -/
theorem OnePass.quiet_lane (h : OnePass u t) (hu : u.events = []) {j : Nat}
    (hj : j < u.cfg.pinCount.val → u.idr.getLsbD j = pinLevel u j) :
    t.idr.getLsbD j = u.idr.getLsbD j ∧ t.pinChangedLevel.getLsbD j = u.pinChangedLevel.getLsbD j ∧
      ∀ b, Event.pinChanged j b ∉ t.events := by
  have hquiet : ¬(j < u.cfg.pinCount.val ∧ isNotified u j = true) := fun ⟨hlt, hn⟩ => by simp [isNotified, hj hlt] at hn
  refine ⟨?_, ?_, fun b hmem => hquiet ((h.pinChanged_mem_iff hu j b).mp hmem).1⟩
  · rw [h.1 j]
    split
    next hlt => exact (hj hlt).symm
    next => rfl
  · rw [h.2.1 j, if_neg hquiet]

/-! ## The statements on the pass -/

/-- Settles O29: the first pass leaves levels that hold, and neither pass changes an input of the conflict detector. -/
theorem resolutionIsIdempotent : Obligations.ResolutionIsIdempotent := by
  intro s
  obtain ⟨t, ht, hpt⟩ := exec_resolve_onePass s
  obtain ⟨u, hu, hpu⟩ := exec_resolve_onePass t
  have hl : LevelsHold (startOperation t) := hpt.levelsHold
  obtain ⟨hidr, hlines⟩ := hpu.of_levelsHold hl
  refine ⟨t, u, ht, hu, hidr, hlines, hpt.events_end, hpu.events_end, hpu.no_pinChanged_of_levelsHold rfl hl,
    fun i => ?_⟩
  have hcfg : (startOperation t).cfg = s.cfg := hpt.frame.1
  rw [hpu.short_mem_iff rfl, hpt.short_mem_iff rfl, hcfg]
  exact and_congr_right fun _ => by rw [← hpt.isShorted_eq i]; rfl

/-- Settles O30: level, notification and short of a pin are functions of its six inputs. -/
theorem pinsAreIndependentLanes : Obligations.PinsAreIndependentLanes := by
  intro s u i hs hu hm hp ho hl hd hidr
  obtain ⟨t, ht, hpt⟩ := exec_resolve_onePass s
  obtain ⟨v, hv, hpv⟩ := exec_resolve_onePass u
  have hlevel : pinLevel (startOperation s) i = pinLevel (startOperation u) i := pinLevel_of_inputs hm hp ho hl hd
  have hmode : modeOf (startOperation s) i = modeOf (startOperation u) i := hm
  have hnotified : isNotified (startOperation s) i = isNotified (startOperation u) i := by
    rw [isNotified, isNotified, hlevel, hmode, startOperation_idr, startOperation_idr, hidr]
  have hshorted : isShorted (startOperation s) i = isShorted (startOperation u) i := by
    simp [isShorted, hd, hmode]
  refine ⟨t, v, ht, hv, ?_, fun b => ?_, ?_⟩
  · rw [hpt.idr_eq_pinLevel hs, hpv.idr_eq_pinLevel hu, hlevel]
  · rw [hpt.pinChanged_mem_iff rfl, hpv.pinChanged_mem_iff rfl, hlevel, hnotified]
    simp [hs, hu]
  · rw [hpt.short_mem_iff rfl, hpv.short_mem_iff rfl, hshorted]
    simp [hs, hu]

/-- Settles O53: only a notified pin's line moves, and a notified pin is in INPUT mode and changes its IDR bit. -/
theorem lineStaysStaleOutsideInputMode : Obligations.LineStaysStaleOutsideInputMode := by
  intro s
  obtain ⟨t, hexec, hpass⟩ := exec_resolve_onePass s
  refine ⟨t, hexec, fun i => ⟨fun hm => ?_, fun hl hi => (hpass.quiet_lane rfl (hl i)).2.1⟩⟩
  exact (hpass.pinChangedLevel_eq i).trans (if_neg fun h => hm h.2.1)

/-! ## The statements on the pin-input rows -/

/-- Settles O36: the row clears bit i of the drive and looks at nothing else. -/
theorem floatingAPinDisconnectsIt : Obligations.FloatingAPinDisconnectsIt := by
  intro s i hi
  have hwf : decide (i < 16) = true := decide_eq_true (by omega)
  obtain ⟨t, hexec, hpass⟩ := pinEvent_inRange hi (setDriven i false)
  exact ⟨RoundTrip.pinFloat i _ _ hwf (decide_eq_true hi) rfl, _, t,
    getLsbD_setBit_pin hi s.externalDriven false, hexec, hpass⟩

/-- Settles O37: another pin's inputs are kept, so its level holds before the pass. -/
theorem pinEventMovesOnlyItsPin : Obligations.PinEventMovesOnlyItsPin := by
  intro s i j hi hj hl op hop
  obtain ⟨level, driven, t, row, hexec, hpass⟩ := exec_pinRow_inRange hop hi
  have hlevel : pinLevel (driveWith level driven (startOperation s)) j = pinLevel s j :=
    pinLevel_of_inputs rfl rfl rfl (row.level _ j hj) (row.driven _ j hj)
  exact ⟨t, hexec, hpass.quiet_lane rfl fun hlt => (hl j hlt).trans hlevel.symm⟩

/-! ## What determines IDR -/

/-- Settles O55: below PIN_COUNT IDR is the level, whose inputs the record has, and above it is 0. -/
theorem persistedRecordDeterminesIdr : Obligations.PersistedRecordDeterminesIdr := by
  intro s t hs ht hcfg hrec
  have hlevel : ∀ i, pinLevel s i = pinLevel t i :=
    pinLevel_congr (congrArg PersistedRecord.moder hrec) (congrArg PersistedRecord.pupdr hrec)
      (congrArg PersistedRecord.odr hrec) (congrArg PersistedRecord.externalLevel hrec)
      (congrArg PersistedRecord.externalDriven hrec)
  apply BitVec.eq_of_getLsbD_eq
  intro i _
  by_cases hi : i < s.cfg.pinCount.val
  · rw [hs.1 i hi, ht.1 i (hcfg ▸ hi), hlevel]
  · have hge := Nat.le_of_not_lt hi
    rw [(hs.2.1 i hge).1, (ht.2.1 i (hcfg ▸ hge)).1]

end Sys2Proof.Machine

/-!
Proofs about the reset line, held lines and construction (O31, O33, O39, O40, O41, O56). The asserting edge hands the
pass the device defaults; no default pin is in OUTPUT mode and none that is pulled up in INPUT mode, so the pass after
it reports no short, and from the construction state it notifies no pin.
-/
namespace Sys2Proof.Machine

open Laws

variable {s t u : State}

/-! ## Held lines -/

/-- Settles O33: a level that is the tracked one selects the hold row, which starts the operation and does nothing. -/
theorem heldLinesDoNothing : Obligations.HeldLinesDoNothing :=
  fun _ => ⟨rfl, rfl, fun _ _ hv hp => step_of_fetch hp (fetch_lineReset_of_eq hv),
    fun _ _ hv hp => step_of_fetch hp (fetch_lineEnable_of_eq hv)⟩

/-! ## The device defaults -/

theorem resetDefaults_of_no_defaults {f : Family} {p : Nat} (h : f = .other ∨ 2 ≤ p) :
    resetDefaults f p = { moder := 0, pupdr := 0, ospeedr := 0 } := by
  have h0 : ¬(f = .f4 ∧ p = 0) := by rintro ⟨rfl, rfl⟩; simp at h
  have h1 : ¬(f = .f4 ∧ p = 1) := by rintro ⟨rfl, rfl⟩; simp at h
  rw [resetDefaults, if_neg h0, if_neg h1]

/-- The lines of the defaults table (10_state.md R47). -/
theorem family_port_cases (f : Family) (p : Nat) : (f = .f4 ∧ p = 0) ∨ (f = .f4 ∧ p = 1) ∨ f = .other ∨ 2 ≤ p := by
  cases f
  · have : p = 0 ∨ p = 1 ∨ 2 ≤ p := by omega
    simpa using this
  · simp

/-- In the defaults no pin is in OUTPUT mode, and no pin in INPUT mode is pulled up. -/
theorem resetDefaults_pin (f : Family) (p : Nat) {i : Nat} (hi : i < 16) :
    modeOfCode (field2 (resetDefaults f p).moder i) ≠ .output ∧
    (modeOfCode (field2 (resetDefaults f p).moder i) = .input →
      pullOfCode (field2 (resetDefaults f p).pupdr i) ≠ .up) := by
  have hpins : ∀ d ∈ [resetDefaults .f4 0, resetDefaults .f4 1, resetDefaults .other 0], ∀ i : Fin 16,
      modeOfCode (field2 d.moder i) ≠ .output ∧
      (modeOfCode (field2 d.moder i) = .input → pullOfCode (field2 d.pupdr i) ≠ .up) := by decide
  refine hpins _ ?_ ⟨i, hi⟩
  obtain ⟨rfl, rfl⟩ | ⟨rfl, rfl⟩ | h := family_port_cases f p
  · simp
  · simp
  · simp [resetDefaults_of_no_defaults h, resetDefaults_of_no_defaults (.inl rfl : Family.other = .other ∨ 2 ≤ 0)]

/-- After the defaults are loaded no pin conflicts, whatever drives it. -/
theorem isShorted_resetPrepared {i : Nat} (hi : i < s.cfg.pinCount.val) : isShorted (resetPrepared s) i = false := by
  have hm : modeOf (resetPrepared s) i ≠ .output :=
    (resetDefaults_pin s.cfg.family s.cfg.port (by omega : i < 16)).1
  exact Bool.eq_false_iff.mpr fun h => hm (isShorted_iff.mp h).1

/-- Settles O31: the four lines of the table are the defaults loaded, and no default pin is in OUTPUT mode. -/
theorem resetAssertLoadsTheDefaults : Obligations.ResetAssertLoadsTheDefaults := by
  intro s hr
  have hrow : rowCondition (decodeContext s) .resetAssert = true := by simp [rowCondition, decodeContext, hr]
  refine ⟨RoundTrip.resetAssert _ _ rfl hrow rfl, fun m p sp h0 h1 h2 hother => ?_⟩
  obtain ⟨t, hexec, hpass⟩ := exec_resetAssert_released hr
  have hdef : resetDefaults s.cfg.family s.cfg.port = { moder := m, pupdr := p, ospeedr := sp } := by
    obtain ⟨hf, hp⟩ | ⟨hf, hp⟩ | hno := family_port_cases s.cfg.family s.cfg.port
    · obtain ⟨rfl, rfl, rfl⟩ := h0 hf hp
      rw [hf, hp]; rfl
    · obtain ⟨rfl, rfl, rfl⟩ := h1 hf hp
      rw [hf, hp]; rfl
    · rw [resetDefaults_of_no_defaults hno]
      cases hf : s.cfg.family with
      | f4 => obtain ⟨rfl, rfl, rfl⟩ := h2 hf (hno.resolve_left (by simp [hf])); rfl
      | other => obtain ⟨rfl, rfl, rfl⟩ := hother hf; rfl
  refine ⟨t, hexec, ?_, fun i hmem => ?_⟩
  · have hprep : resetPrepared s = { s with
        resetAsserted := true
        moder := m, otyper := 0, ospeedr := sp, pupdr := p, idr := 0, odr := 0, lckr := 0, afrl := 0, afrh := 0
        rdata := none, events := [] } := by
      simp [resetPrepared, applyDefaults, hdef, zeroRegisters, setResetAsserted, startOperation]
    rwa [hprep] at hpass
  · obtain ⟨hi, hs⟩ := (hpass.short_mem_iff rfl i).mp hmem
    exact absurd (hs.symm.trans (isShorted_resetPrepared hi)) nofun

/-! ## The construction state -/

/-- Settles O56: the fields of the construction state, written out. -/
theorem constructionStateIsZero : Obligations.ConstructionStateIsZero :=
  fun _ => ⟨rfl, rfl, rfl, rfl, rfl, rfl, rfl, rfl, rfl, rfl, rfl, rfl, rfl, rfl, rfl, rfl, rfl, rfl, rfl⟩

/-- All zero is a state whose levels hold: an undriven INPUT pin without a pull is low. -/
theorem portInv_construct (c : Config) : PortInv (State.construct c) := by
  have hzero : ∀ {n : Nat} (i : Nat), (0 : BitVec n).getLsbD i = false := by simp
  have hm : ∀ i, modeOf (State.construct c) i ≠ .output := by
    intro i
    rw [ne_eq, modeOf_eq_output]
    simp [State.construct]
  have hp : ∀ i, pullOf (State.construct c) i ≠ .up := by
    intro i
    rw [ne_eq, pullOf_eq_up]
    simp [State.construct]
  exact ⟨fun i _ => (hzero i).trans (pinLevel_of_pull_ne_up (hzero i) (hm i) (hp i)).symm,
    fun i _ => ⟨hzero i, hzero i, hzero i⟩, fun i _ => hzero i, rfl⟩

/-- Settles O39: all zero meets the invariant in every configuration, and State.reset is checked pin by pin. -/
theorem constructionAndResetMeetTheInvariant : Obligations.ConstructionAndResetMeetTheInvariant :=
  ⟨portInv_of_bits (by decide) (by decide) (by decide) rfl, fun c => ⟨portInv_construct c, rfl⟩⟩

/-! ## Reset of the construction state -/

/-- Bit i is an implemented pin that PUPDR value p pulls up. -/
def pulledUp (n : Nat) (p : Word) (i : Nat) : Bool := decide (i < n) && decide (pullOfCode (field2 p i) = .up)

/-- A word is known by its 32 bits, those pulled up. -/
theorem eq_of_pulledUp {v w p : Word} {n : Nat} (hv : ∀ i, v.getLsbD i = pulledUp n p i)
    (hw : ∀ i : Fin 32, pulledUp n p i = w.getLsbD i) : v = w :=
  BitVec.eq_of_getLsbD_eq fun i hi => (hv i).trans (hw ⟨i, hi⟩)

/-- Port A: pins 13 and 15 are pulled up. -/
theorem pulledUp_portA :
    (∀ i : Fin 32, pulledUp 16 0x64000000 i = (0x0000A000 : Word).getLsbD i) ∧
    (∀ i : Fin 32, pulledUp 15 0x64000000 i = (0x00002000 : Word).getLsbD i) ∧
    (∀ i : Fin 32, pulledUp 14 0x64000000 i = (0x00002000 : Word).getLsbD i) ∧
    (∀ n : Fin 14, ∀ i : Fin 32, pulledUp n 0x64000000 i = (0 : Word).getLsbD i) := by decide

/-- Port B: pin 4 is pulled up. -/
theorem pulledUp_portB : ∀ n : Fin 17, ∀ i : Fin 32,
    pulledUp n 0x00000100 i = (if 5 ≤ n.val then 0x00000010 else 0 : Word).getLsbD i := by decide

theorem pulledUp_zero (n i : Nat) : pulledUp n 0 i = (0 : Word).getLsbD i := by
  have hfield : field2 0#32 i = 0#2 := by simp [field2]
  have hpull : pullOfCode (field2 0#32 i) = .none := by rw [hfield]; rfl
  simp [pulledUp, hpull]

/-- What RESET(1) on the construction state hands to the pass. -/
def resetConstruct (c : Config) (rest : List Operation) : State :=
  resetPrepared { State.construct c with pending := rest }

/-- With nothing driven and no default pin in OUTPUT mode the default pull decides. -/
theorem pinLevel_resetConstruct (c : Config) (rest : List Operation) {i : Nat} (hi : i < c.pinCount.val) :
    pinLevel (resetConstruct c rest) i =
      decide (pullOfCode (field2 (resetDefaults c.family c.port).pupdr i) = .up) := by
  have hd : (resetConstruct c rest).externalDriven.getLsbD i = false := by
    simp [resetConstruct, resetPrepared, State.construct]
  rw [Bool.eq_iff_iff, decide_eq_true_eq]
  exact pinLevel_eq_true_iff_pull_up hd (resetDefaults_pin c.family c.port (by omega : i < 16)).1

/-- No default pin in INPUT mode is pulled up, so none rises from the zeroed IDR. -/
theorem isNotified_resetConstruct (c : Config) (rest : List Operation) {i : Nat} (hi : i < c.pinCount.val) :
    isNotified (resetConstruct c rest) i = false := by
  have hidr : (resetConstruct c rest).idr.getLsbD i = false := by simp [resetConstruct, resetPrepared]
  refine Bool.eq_false_iff.mpr fun hn => ?_
  simp only [isNotified, pinLevel_resetConstruct c rest hi, hidr, Bool.and_eq_true, decide_eq_true_eq, ne_eq,
    decide_eq_false_iff_not, not_not] at hn
  obtain ⟨hup, hmode⟩ := hn
  exact (resetDefaults_pin c.family c.port (by omega : i < 16)).2 hmode hup

theorem passEvents_resetConstruct (c : Config) (rest : List Operation) :
    passEvents (resetConstruct c rest) = pulseEvents := by
  have hpins : (List.range c.pinCount.val).flatMap (pinEvents (resetConstruct c rest)) = [] := by
    refine List.flatMap_eq_nil_iff.mpr fun i hi => ?_
    have hlt : i < c.pinCount.val := List.mem_range.mp hi
    have hshort : isShorted (resetConstruct c rest) i = false := isShorted_resetPrepared hlt
    simp [pinEvents, hshort, isNotified_resetConstruct c rest hlt]
  calc passEvents (resetConstruct c rest)
    _ = (List.range c.pinCount.val).flatMap (pinEvents (resetConstruct c rest)) ++ pulseEvents := rfl
    _ = pulseEvents := by rw [hpins, List.nil_append]

/-- RESET(1) on the construction state: the defaults, IDR by the default pulls, and the pulse alone. -/
theorem step_reset_construct (c : Config) (rest : List Operation) :
    ∃ t, step { State.construct c with pending := .lineReset 1 :: rest } = .next t ∧
      t = { resetConstruct c rest with idr := t.idr, events := pulseEvents } ∧
      ∀ i, t.idr.getLsbD i = pulledUp c.pinCount.val (resetDefaults c.family c.port).pupdr i := by
  obtain ⟨t, hexec, hpass⟩ := exec_resetAssert_released (s := { State.construct c with pending := rest }) rfl
  change OnePass (resetConstruct c rest) t at hpass
  have hlines : t.pinChangedLevel = (resetConstruct c rest).pinChangedLevel := by
    refine BitVec.eq_of_getLsbD_eq fun i _ => (hpass.2.1 i).trans (if_neg fun h => ?_)
    exact absurd (h.2.symm.trans (isNotified_resetConstruct c rest h.1)) nofun
  have hf : fetch { State.construct c with pending := .lineReset 1 :: rest } (.lineReset 1) = .ok .resetAssert := by
    simp [fetch_lineReset, lineLevel, State.construct]
  refine ⟨t, (step_of_fetch rfl hf).trans hexec, ?_, fun i => ?_⟩
  · calc t = _ := hpass.2.2
      _ = { resetConstruct c rest with idr := t.idr, events := pulseEvents } := by
        rw [hlines, passEvents_resetConstruct]; rfl
  · rw [hpass.1 i, pulledUp]
    split
    next hi => rw [pinLevel_resetConstruct c rest hi, decide_eq_true (show i < c.pinCount.val from hi), Bool.true_and]
    next hi => rw [decide_eq_false (show ¬i < c.pinCount.val from hi)]; simp [resetConstruct, resetPrepared]

/-- Settles O40: the fields are the defaults of the configuration's line, IDR its pulls below PIN_COUNT. -/
theorem resetOfTheConstructionState : Obligations.ResetOfTheConstructionState := by
  intro c
  obtain ⟨t, hstep, ht, hidr⟩ := step_reset_construct c []
  have hregs : t.moder = (resetDefaults c.family c.port).moder ∧ t.pupdr = (resetDefaults c.family c.port).pupdr ∧
      t.ospeedr = (resetDefaults c.family c.port).ospeedr := by rw [ht]; exact ⟨rfl, rfl, rfl⟩
  refine ⟨t, hstep, by rw [ht]; rfl, by rw [ht]; rfl, by rw [ht]; rfl, by rw [ht]; rfl, by rw [ht]; rfl,
    by rw [ht]; rfl, by rw [ht]; rfl, by rw [ht]; rfl, by rw [ht]; rfl, fun hf hp => ?_, fun hf hp => ?_,
    fun hf hp => ?_, fun hf => ?_⟩
  · rw [hf, hp] at hregs hidr
    obtain ⟨h16, h15, h14, h13⟩ := pulledUp_portA
    refine ⟨hregs.1, hregs.2.1, hregs.2.2, fun hn => ?_, fun hn => ?_, fun hn => ?_⟩
    · rw [hn] at hidr
      exact eq_of_pulledUp hidr h16
    · obtain hn | hn := hn <;> rw [hn] at hidr
      · exact eq_of_pulledUp hidr h14
      · exact eq_of_pulledUp hidr h15
    · exact eq_of_pulledUp hidr (h13 ⟨c.pinCount.val, by omega⟩)
  · rw [hf, hp] at hregs hidr
    have hbits := eq_of_pulledUp hidr (pulledUp_portB c.pinCount)
    exact ⟨hregs.1, hregs.2.1, hregs.2.2, fun hn => hbits.trans (if_pos hn),
      fun hn => hbits.trans (if_neg (by omega))⟩
  · rw [resetDefaults_of_no_defaults (.inr hp)] at hregs hidr
    exact ⟨hregs.1, hregs.2.1, hregs.2.2, eq_of_pulledUp hidr fun i => pulledUp_zero _ i⟩
  · rw [resetDefaults_of_no_defaults (.inl hf)] at hregs hidr
    exact ⟨hregs.1, hregs.2.1, hregs.2.2, eq_of_pulledUp hidr fun i => pulledUp_zero _ i⟩

/-- Settles O41: the releasing edge after the asserting one finds the invariant, so its pass writes nothing. -/
theorem stateResetIsThePulsedConstructionState : Obligations.StateResetIsThePulsedConstructionState := by
  obtain ⟨t, hstep, ht, hidr⟩ := step_reset_construct Config.standard [.lineReset 0]
  have hinv : PortInv t := by
    refine stepKeepsTheInvariant _ t ?_ hstep
    exact portInv_construct Config.standard
  have hr : t.resetAsserted = true := by rw [ht]; rfl
  have hp : t.pending = [.lineReset 0] := by rw [ht]; rfl
  have hf : fetch t (.lineReset 0) = .ok .resetDeassert := by simp [fetch_lineReset, lineLevel, hr]
  obtain ⟨u, hexec, hpass⟩ := exec_resetDeassert_asserted (s := takeOperation [] t) hr
  have hidr16 : t.idr = 0x0000A000 := eq_of_pulledUp hidr pulledUp_portA.1
  refine ⟨t, u, hstep, (step_of_fetch hp hf).trans hexec, ?_⟩
  rw [hpass.eq_of_portInv hinv, ht, hidr16]
  rfl

end Sys2Proof.Machine
